-- ==== Sys2Proof/Word.lean ====
section
/-! DEFINITION. The value types of the machine: bytes, 16-bit words, 12-bit immediate addresses and register numbers
(spec 00_scope.md R5, R7, R8: every value is unsigned). -/

namespace Sys2Proof

/-- REG_W: the width of a V register, of a timer and of a memory byte (R5). -/
abbrev Byte := BitVec 8

/-- PC_W, I_W, STACK_W, IR_W: the width of PC, I, a stack entry and an instruction word (R5). -/
abbrev Word := BitVec 16

/-- The immediate address `nnn`, twelve bits (R7). -/
abbrev Address := BitVec 12

/-- A register number `x` or `y` (and the count `x` of Fx55, Fx65), 0 to 15 (R11). -/
abbrev Reg := Fin 16

/-- V[15], the register that doubles as the flag register (R12). -/
abbrev VF : Reg := 15

end Sys2Proof
end

