-- ==== Sys2Proof/Machine/Flags.lean ====
section
/-! DEFINITION. Every flag computation of 10_state.md R12 but the collision flag, which the rasterizer of
Machine/Sprite.lean accumulates. Each is the byte that goes into V[15], computed over the integers and compared (R8). -/

namespace Sys2Proof.Machine

/-- `[c]`: 1 where `c` holds, else 0. -/
def flagByte (c : Bool) : Byte := if c then 1 else 0

/-- 8xy4: carry out of bit 7, 1 if the sum exceeds 255 (R79). -/
def carryFlag (a b : Byte) : Byte := flagByte (decide (a.toNat + b.toNat > 255))

/-- 8xy5 and 8xy7: 1 if the minuend is strictly greater than the subtrahend, so 0 on equal operands (R80, R82). -/
def greaterFlag (minuend subtrahend : Byte) : Byte := flagByte (decide (minuend.toNat > subtrahend.toNat))

/-- 8xy6: bit 0 of the register before the shift (R81). -/
def shiftRightFlag (a : Byte) : Byte := flagByte (a.getLsbD 0)

/-- 8xyE: bit 7 of the register before the shift (R83). -/
def shiftLeftFlag (a : Byte) : Byte := flagByte (a.getLsbD 7)

/-- Fx1E: 1 if the unreduced sum leaves the 12-bit address range (R95). -/
def indexFlag (i : Word) (a : Byte) : Byte := flagByte (decide (i.toNat + a.toNat > 0xFFF))

end Sys2Proof.Machine
end

