-- ==== Sys2Proof/Config.lean ====
section
/-! DEFINITION. What is fixed for one machine: the sizes of R5, and the three parameters R6 leaves open, each a constant
WITHOUT a body, so that no proof can see a value of it (log entries 2, 5, 6). -/

namespace Sys2Proof.Config

/-- MEM_SIZE (R5): bytes 0x000 to 0xFFF. -/
abbrev memSize : Nat := 4096

/-- PROG_BASE (R5): the first byte of the program region and the reset value of PC. -/
abbrev progBase : Nat := 0x200

/-- PROG_MAX (R5): the largest program the load port accepts. -/
abbrev progMax : Nat := 3584

/-- FONT_BASE (R5). -/
abbrev fontBase : Nat := 0x050

/-- GLYPH_BYTES (R5). -/
abbrev glyphBytes : Nat := 5

/-- FB_COLS (R5). -/
abbrev fbCols : Nat := 64

/-- FB_ROWS (R5). -/
abbrev fbRows : Nat := 32

/-- FONT (R6 (a), R129, D15): the 80 bytes of the font table, which fill `[0x050, 0x0A0)`. The source never lists them: a parameter (log entry 5). -/
opaque font : Vector Byte 80

/-- The byte that the k-th draw of Cxkk receives when the host has supplied none: the free value of R6 (b), R25
(log entry 2). -/
opaque freeRnd : Nat → Byte

/-- Which of the held keys Fx0A reports when several are held, as a function of the keypad bits: the free choice of
R6 (c), D9 (log entry 6). It is reduced modulo the number of held keys where it is used. -/
opaque keyChoice : BitVec 16 → Nat

/-- The customary font, the default of R129 (general knowledge in the spec's own words). No definition of the machine
uses it: a claim about glyph bytes names `font.toList = customaryFont` as a premise, as R129 asks. -/
def customaryFont : List Byte :=
  [0xF0, 0x90, 0x90, 0x90, 0xF0, 0x20, 0x60, 0x20, 0x20, 0x70] ++
  [0xF0, 0x10, 0xF0, 0x80, 0xF0, 0xF0, 0x10, 0xF0, 0x10, 0xF0] ++
  [0x90, 0x90, 0xF0, 0x10, 0x10, 0xF0, 0x80, 0xF0, 0x10, 0xF0] ++
  [0xF0, 0x80, 0xF0, 0x90, 0xF0, 0xF0, 0x10, 0x20, 0x40, 0x40] ++
  [0xF0, 0x90, 0xF0, 0x90, 0xF0, 0xF0, 0x90, 0xF0, 0x10, 0xF0] ++
  [0xF0, 0x90, 0xF0, 0x90, 0x90, 0xE0, 0x90, 0xE0, 0x90, 0xE0] ++
  [0xF0, 0x80, 0x80, 0x80, 0xF0, 0xE0, 0x90, 0x90, 0x90, 0xE0] ++
  [0xF0, 0x80, 0xF0, 0x80, 0xF0, 0xF0, 0x80, 0xF0, 0x80, 0x80]

end Sys2Proof.Config
end

