-- ==== Sys2Proof/Syntax.lean ====
section
/-! DEFINITION. The instructions: one constructor per row of spec/opcode_table.json (30_encoding.md R50), in its order.
Every operand has the type of its field (R46, R47), so a term of `Instr` is an instruction and nothing else. -/

namespace Sys2Proof

/-- The 34 instructions (R50), named after the table's labels. -/
inductive Instr where
  /-- `00E0` (CLS, R108): clear the framebuffer. -/
  | cls
  /-- `00EE` (RET, R85): return from a subroutine. -/
  | ret
  /-- `1nnn` (JP_NNN, R86): jump. -/
  | jpNnn (nnn : Address)
  /-- `2nnn` (CALL_NNN, R87): call a subroutine. -/
  | callNnn (nnn : Address)
  /-- `3xkk` (SE_VX_KK, R90): skip if Vx equals kk. -/
  | seVxKk (x : Reg) (kk : Byte)
  /-- `4xkk` (SNE_VX_KK, R91): skip if Vx differs from kk. -/
  | sneVxKk (x : Reg) (kk : Byte)
  /-- `5xy0` (SE_VX_VY, R92): skip if Vx equals Vy. -/
  | seVxVy (x : Reg) (y : Reg)
  /-- `6xkk` (LD_VX_KK, R73): Vx becomes kk. -/
  | ldVxKk (x : Reg) (kk : Byte)
  /-- `7xkk` (ADD_VX_KK, R74): Vx becomes Vx plus kk. -/
  | addVxKk (x : Reg) (kk : Byte)
  /-- `8xy0` (LD_VX_VY, R75): Vx becomes Vy. -/
  | ldVxVy (x : Reg) (y : Reg)
  /-- `8xy1` (OR, R76): bitwise or. -/
  | orVxVy (x : Reg) (y : Reg)
  /-- `8xy2` (AND, R77): bitwise and. -/
  | andVxVy (x : Reg) (y : Reg)
  /-- `8xy3` (XOR, R78): bitwise exclusive or. -/
  | xorVxVy (x : Reg) (y : Reg)
  /-- `8xy4` (ADD_VX_VY, R79): add with carry into VF. -/
  | addVxVy (x : Reg) (y : Reg)
  /-- `8xy5` (SUB, R80): subtract Vy from Vx. -/
  | subVxVy (x : Reg) (y : Reg)
  /-- `8xy6` (SHR, R81): shift Vx right by one; y is a field of the word that the instruction ignores (R49). -/
  | shrVx (x : Reg) (y : Reg)
  /-- `8xy7` (SUBN, R82): subtract Vx from Vy into Vx. -/
  | subnVxVy (x : Reg) (y : Reg)
  /-- `8xyE` (SHL, R83): shift Vx left by one; y is ignored (R49). -/
  | shlVx (x : Reg) (y : Reg)
  /-- `9xy0` (SNE_VX_VY, R93): skip if Vx differs from Vy. -/
  | sneVxVy (x : Reg) (y : Reg)
  /-- `Annn` (LD_I_NNN, R94): I becomes nnn. -/
  | ldINnn (nnn : Address)
  /-- `Bnnn` (JP_V0_NNN, R88): jump to nnn plus V0. -/
  | jpV0Nnn (nnn : Address)
  /-- `Cxkk` (RND, R84): Vx becomes a random byte masked by kk. -/
  | rndVxKk (x : Reg) (kk : Byte)
  /-- `Dxyn` (DRW, R109): draw n sprite rows. -/
  | drwVxVyN (x : Reg) (y : Reg) (n : Fin 16)
  /-- `Ex9E` (SKP, R104): skip if key Vx is held. -/
  | skpVx (x : Reg)
  /-- `ExA1` (SKNP, R105): skip if key Vx is not held. -/
  | sknpVx (x : Reg)
  /-- `Fx07` (LD_VX_DT, R100): Vx becomes the delay timer. -/
  | ldVxDt (x : Reg)
  /-- `Fx0A` (LD_VX_K, R106): wait for a key. -/
  | ldVxK (x : Reg)
  /-- `Fx15` (LD_DT_VX, R101): the delay timer becomes Vx. -/
  | ldDtVx (x : Reg)
  /-- `Fx18` (LD_ST_VX, R102): the sound timer becomes Vx. -/
  | ldStVx (x : Reg)
  /-- `Fx1E` (ADD_I_VX, R95): I becomes I plus Vx. -/
  | addIVx (x : Reg)
  /-- `Fx29` (LD_F_VX, R96): I becomes the address of glyph Vx. -/
  | ldFVx (x : Reg)
  /-- `Fx33` (BCD, R97): store the decimal digits of Vx. -/
  | bcdVx (x : Reg)
  /-- `Fx55` (STM, R98): store V0 to Vx. -/
  | stmVx (x : Reg)
  /-- `Fx65` (LDM, R99): load V0 to Vx. -/
  | ldmVx (x : Reg)
deriving DecidableEq, Repr

end Sys2Proof
end

