-- ==== Sys2Proof/WellFormed.lean ====
section
/-! DEFINITION. What is well formed. A term of `Instr` always is, since its operands have the types of their fields. What
can be ill formed is a 16-bit WORD (it may match no row of the opcode map, R50, R51) and a PROGRAM (it may be too long for
the load port, R130). The rows below are the spec's mask and match columns, kept apart from the decoder. -/

namespace Sys2Proof

/-- One row of the opcode map (R50): a word `w` is this instruction exactly when `w & mask == value`. -/
structure OpcodeRow where
  mnemonic : String
  mask : Word
  value : Word
deriving DecidableEq, Repr

/-- `w & mask == match` (R50). -/
def OpcodeRow.covers (r : OpcodeRow) (w : Word) : Bool := w &&& r.mask == r.value

/-- The opcode map of R50, all 34 rows in the spec's order. -/
def opcodeRows : List OpcodeRow :=
  [⟨"CLS", 0xFFFF, 0x00E0⟩, ⟨"RET", 0xFFFF, 0x00EE⟩,
   ⟨"JP_NNN", 0xF000, 0x1000⟩, ⟨"CALL_NNN", 0xF000, 0x2000⟩,
   ⟨"SE_VX_KK", 0xF000, 0x3000⟩, ⟨"SNE_VX_KK", 0xF000, 0x4000⟩] ++
  [⟨"SE_VX_VY", 0xF00F, 0x5000⟩, ⟨"LD_VX_KK", 0xF000, 0x6000⟩,
   ⟨"ADD_VX_KK", 0xF000, 0x7000⟩, ⟨"LD_VX_VY", 0xF00F, 0x8000⟩,
   ⟨"OR", 0xF00F, 0x8001⟩, ⟨"AND", 0xF00F, 0x8002⟩] ++
  [⟨"XOR", 0xF00F, 0x8003⟩, ⟨"ADD_VX_VY", 0xF00F, 0x8004⟩,
   ⟨"SUB", 0xF00F, 0x8005⟩, ⟨"SHR", 0xF00F, 0x8006⟩,
   ⟨"SUBN", 0xF00F, 0x8007⟩, ⟨"SHL", 0xF00F, 0x800E⟩] ++
  [⟨"SNE_VX_VY", 0xF00F, 0x9000⟩, ⟨"LD_I_NNN", 0xF000, 0xA000⟩,
   ⟨"JP_V0_NNN", 0xF000, 0xB000⟩, ⟨"RND", 0xF000, 0xC000⟩,
   ⟨"DRW", 0xF000, 0xD000⟩, ⟨"SKP", 0xF0FF, 0xE09E⟩] ++
  [⟨"SKNP", 0xF0FF, 0xE0A1⟩, ⟨"LD_VX_DT", 0xF0FF, 0xF007⟩,
   ⟨"LD_VX_K", 0xF0FF, 0xF00A⟩, ⟨"LD_DT_VX", 0xF0FF, 0xF015⟩,
   ⟨"LD_ST_VX", 0xF0FF, 0xF018⟩, ⟨"ADD_I_VX", 0xF0FF, 0xF01E⟩] ++
  [⟨"LD_F_VX", 0xF0FF, 0xF029⟩, ⟨"BCD", 0xF0FF, 0xF033⟩,
   ⟨"STM", 0xF0FF, 0xF055⟩, ⟨"LDM", 0xF0FF, 0xF065⟩]

/-- A well-formed word: some row of R50 covers it. The words that are not are the unknown opcodes of R51. -/
def wordWellFormed (w : Word) : Bool := opcodeRows.any (·.covers w)

/-- A program the load port accepts: at most PROG_MAX bytes (R130). -/
def programWellFormed (bytes : List Byte) : Bool := bytes.length ≤ Config.progMax

/-- The mnemonic of an instruction in spec/opcode_table.json. -/
def Instr.mnemonic : Instr → String
  | .cls => "CLS"
  | .ret => "RET"
  | .jpNnn _ => "JP_NNN"
  | .callNnn _ => "CALL_NNN"
  | .seVxKk _ _ => "SE_VX_KK"
  | .sneVxKk _ _ => "SNE_VX_KK"
  | .seVxVy _ _ => "SE_VX_VY"
  | .ldVxKk _ _ => "LD_VX_KK"
  | .addVxKk _ _ => "ADD_VX_KK"
  | .ldVxVy _ _ => "LD_VX_VY"
  | .orVxVy _ _ => "OR"
  | .andVxVy _ _ => "AND"
  | .xorVxVy _ _ => "XOR"
  | .addVxVy _ _ => "ADD_VX_VY"
  | .subVxVy _ _ => "SUB"
  | .shrVx _ _ => "SHR"
  | .subnVxVy _ _ => "SUBN"
  | .shlVx _ _ => "SHL"
  | .sneVxVy _ _ => "SNE_VX_VY"
  | .ldINnn _ => "LD_I_NNN"
  | .jpV0Nnn _ => "JP_V0_NNN"
  | .rndVxKk _ _ => "RND"
  | .drwVxVyN _ _ _ => "DRW"
  | .skpVx _ => "SKP"
  | .sknpVx _ => "SKNP"
  | .ldVxDt _ => "LD_VX_DT"
  | .ldVxK _ => "LD_VX_K"
  | .ldDtVx _ => "LD_DT_VX"
  | .ldStVx _ => "LD_ST_VX"
  | .addIVx _ => "ADD_I_VX"
  | .ldFVx _ => "LD_F_VX"
  | .bcdVx _ => "BCD"
  | .stmVx _ => "STM"
  | .ldmVx _ => "LDM"

end Sys2Proof
end

