-- ==== Sys2Proof/Decode.lean ====
section
/-! DEFINITION. The decoder of 30_encoding.md R48, total on every word and on every list of bytes, rejecting by name; and
after it the encoder, written from the formats of R46. Decoding depends on the bits of the word and on nothing else (R53). -/

namespace Sys2Proof

/-- Why bytes are not an instruction. -/
inductive DecodeError where
  /-- fewer than the two bytes of an instruction (R45) -/
  | truncated
  /-- the word matches no pattern (R51) -/
  | unknownOpcode (w : Word)
deriving DecidableEq, Repr

/-! ## Fields of a word (R7) -/

/-- The major opcode, bits 15 to 12. -/
def opField (w : Word) : BitVec 4 := w.extractLsb' 12 4
/-- `x`, bits 11 to 8. -/
def xField (w : Word) : Reg := (w.extractLsb' 8 4).toFin
/-- `y`, bits 7 to 4. -/
def yField (w : Word) : Reg := (w.extractLsb' 4 4).toFin
/-- `n`, bits 3 to 0, as the minor opcode. -/
def minorField (w : Word) : BitVec 4 := w.extractLsb' 0 4
/-- `n`, bits 3 to 0, as the sprite height. -/
def nField (w : Word) : Fin 16 := (w.extractLsb' 0 4).toFin
/-- `kk`, bits 7 to 0. -/
def kkField (w : Word) : Byte := w.extractLsb' 0 8
/-- `nnn`, bits 11 to 0. -/
def nnnField (w : Word) : Address := w.extractLsb' 0 12

/-! ## The decoder (R48) -/

/-- Major opcode 0: two words only, all sixteen bits fixed. -/
def decode0 (w : Word) : Except DecodeError Instr :=
  if w = 0x00E0 then .ok .cls
  else if w = 0x00EE then .ok .ret
  else .error (.unknownOpcode w)

/-- Major opcode 8: the low nibble selects. -/
def decode8 (w : Word) : Except DecodeError Instr :=
  match minorField w with
  | 0x0#4 => .ok (.ldVxVy (xField w) (yField w))
  | 0x1#4 => .ok (.orVxVy (xField w) (yField w))
  | 0x2#4 => .ok (.andVxVy (xField w) (yField w))
  | 0x3#4 => .ok (.xorVxVy (xField w) (yField w))
  | 0x4#4 => .ok (.addVxVy (xField w) (yField w))
  | 0x5#4 => .ok (.subVxVy (xField w) (yField w))
  | 0x6#4 => .ok (.shrVx (xField w) (yField w))
  | 0x7#4 => .ok (.subnVxVy (xField w) (yField w))
  | 0xE#4 => .ok (.shlVx (xField w) (yField w))
  | _ => .error (.unknownOpcode w)

/-- Major opcode E: the low byte selects. -/
def decodeE (w : Word) : Except DecodeError Instr :=
  match kkField w with
  | 0x9E#8 => .ok (.skpVx (xField w))
  | 0xA1#8 => .ok (.sknpVx (xField w))
  | _ => .error (.unknownOpcode w)

/-- Major opcode F: the low byte selects. -/
def decodeF (w : Word) : Except DecodeError Instr :=
  match kkField w with
  | 0x07#8 => .ok (.ldVxDt (xField w))
  | 0x0A#8 => .ok (.ldVxK (xField w))
  | 0x15#8 => .ok (.ldDtVx (xField w))
  | 0x18#8 => .ok (.ldStVx (xField w))
  | 0x1E#8 => .ok (.addIVx (xField w))
  | 0x29#8 => .ok (.ldFVx (xField w))
  | 0x33#8 => .ok (.bcdVx (xField w))
  | 0x55#8 => .ok (.stmVx (xField w))
  | 0x65#8 => .ok (.ldmVx (xField w))
  | _ => .error (.unknownOpcode w)

/-- `decode` of R48: every fixed digit of a pattern must match (decision D3), anything else is an unknown opcode. -/
def decode (w : Word) : Except DecodeError Instr :=
  match opField w with
  | 0x0#4 => decode0 w
  | 0x1#4 => .ok (.jpNnn (nnnField w))
  | 0x2#4 => .ok (.callNnn (nnnField w))
  | 0x3#4 => .ok (.seVxKk (xField w) (kkField w))
  | 0x4#4 => .ok (.sneVxKk (xField w) (kkField w))
  | 0x5#4 => if minorField w = 0 then .ok (.seVxVy (xField w) (yField w)) else .error (.unknownOpcode w)
  | 0x6#4 => .ok (.ldVxKk (xField w) (kkField w))
  | 0x7#4 => .ok (.addVxKk (xField w) (kkField w))
  | 0x8#4 => decode8 w
  | 0x9#4 => if minorField w = 0 then .ok (.sneVxVy (xField w) (yField w)) else .error (.unknownOpcode w)
  | 0xA#4 => .ok (.ldINnn (nnnField w))
  | 0xB#4 => .ok (.jpV0Nnn (nnnField w))
  | 0xC#4 => .ok (.rndVxKk (xField w) (kkField w))
  | 0xD#4 => .ok (.drwVxVyN (xField w) (yField w) (nField w))
  | 0xE#4 => decodeE w
  | _ => decodeF w

/-- The instruction word of two bytes, high byte first (R33). -/
def wordOfBytes (hi lo : Byte) : Word := hi ++ lo

/-- Decoding from the front of a list of bytes, with the bytes that follow. -/
def decodeBytes : List Byte → Except DecodeError (Instr × List Byte)
  | hi :: lo :: rest =>
    match decode (wordOfBytes hi lo) with
    | .ok i => .ok (i, rest)
    | .error e => .error e
  | _ => .error .truncated

/-- The two bytes of a word as memory holds them, the high byte at the lower address (R33). -/
def bytesOfWord (w : Word) : List Byte := [w.extractLsb' 8 8, w.extractLsb' 0 8]

/-- The word the host hands over: bit 0 is its least significant bit, the bits from `nbits` up are 0, and an instruction
here is never longer than sixteen bits (R45). -/
def tableWord (nbits w : Nat) : Word := BitVec.ofNat 16 (w % 2 ^ nbits)

/-- What the decoder reads from an instruction word of spec/opcode_table.json, laid out in memory order. -/
def decodeTableWord (nbits w : Nat) : Option Instr :=
  match decodeBytes (bytesOfWord (tableWord nbits w)) with
  | .ok (i, _) => some i
  | .error _ => none

/-! ## The encoder (R46) -/

/-- A register number as the four bits of its field. -/
def regBits (r : Reg) : BitVec 4 := BitVec.ofFin r

/-- Format NNN. -/
def packNnn (op : BitVec 4) (nnn : Address) : Word := op ++ nnn
/-- Format XKK. -/
def packXkk (op : BitVec 4) (x : Reg) (kk : Byte) : Word := op ++ regBits x ++ kk
/-- Format XY, with the fixed low digit. -/
def packXy (op : BitVec 4) (x y : Reg) (minor : BitVec 4) : Word := op ++ regBits x ++ regBits y ++ minor
/-- Format XYN. -/
def packXyn (op : BitVec 4) (x y : Reg) (n : Fin 16) : Word := op ++ regBits x ++ regBits y ++ regBits n
/-- Format X, with the fixed low byte. -/
def packX (op : BitVec 4) (x : Reg) (low : BitVec 8) : Word := op ++ regBits x ++ low

/-- The word of an instruction, by the rows of R50. -/
def encode : Instr → Word
  | .cls => 0x00E0
  | .ret => 0x00EE
  | .jpNnn nnn => packNnn 0x1#4 nnn
  | .callNnn nnn => packNnn 0x2#4 nnn
  | .seVxKk x kk => packXkk 0x3#4 x kk
  | .sneVxKk x kk => packXkk 0x4#4 x kk
  | .seVxVy x y => packXy 0x5#4 x y 0x0#4
  | .ldVxKk x kk => packXkk 0x6#4 x kk
  | .addVxKk x kk => packXkk 0x7#4 x kk
  | .ldVxVy x y => packXy 0x8#4 x y 0x0#4
  | .orVxVy x y => packXy 0x8#4 x y 0x1#4
  | .andVxVy x y => packXy 0x8#4 x y 0x2#4
  | .xorVxVy x y => packXy 0x8#4 x y 0x3#4
  | .addVxVy x y => packXy 0x8#4 x y 0x4#4
  | .subVxVy x y => packXy 0x8#4 x y 0x5#4
  | .shrVx x y => packXy 0x8#4 x y 0x6#4
  | .subnVxVy x y => packXy 0x8#4 x y 0x7#4
  | .shlVx x y => packXy 0x8#4 x y 0xE#4
  | .sneVxVy x y => packXy 0x9#4 x y 0x0#4
  | .ldINnn nnn => packNnn 0xA#4 nnn
  | .jpV0Nnn nnn => packNnn 0xB#4 nnn
  | .rndVxKk x kk => packXkk 0xC#4 x kk
  | .drwVxVyN x y n => packXyn 0xD#4 x y n
  | .skpVx x => packX 0xE#4 x 0x9E#8
  | .sknpVx x => packX 0xE#4 x 0xA1#8
  | .ldVxDt x => packX 0xF#4 x 0x07#8
  | .ldVxK x => packX 0xF#4 x 0x0A#8
  | .ldDtVx x => packX 0xF#4 x 0x15#8
  | .ldStVx x => packX 0xF#4 x 0x18#8
  | .addIVx x => packX 0xF#4 x 0x1E#8
  | .ldFVx x => packX 0xF#4 x 0x29#8
  | .bcdVx x => packX 0xF#4 x 0x33#8
  | .stmVx x => packX 0xF#4 x 0x55#8
  | .ldmVx x => packX 0xF#4 x 0x65#8

end Sys2Proof
end

