-- ==== Sys2Proof/Machine/State.lean ====
section
/-! DEFINITION. The state of the machine as plain data: every element of the aggregate of 10_state.md R10, each with one
home, then the ports of R26, the counter of the free value, and whether the engine was ever reset, which are the model's
own (log entries 1, 2, 3, 12). -/

namespace Sys2Proof.Machine

/-- Memory as its listed cells (address, byte), addresses strictly rising, no cell equal to what an unlisted address reads
as (`Memory.wf` in Machine/Ops.lean). -/
abbrev Memory := List Host.Cell

/-- The framebuffer of 64 by 32 one-bit cells, row-major (R107): row `r` is the r-th entry, column `c` its bit `c`
(log entry 8). -/
abbrev FrameBuffer := Vector (BitVec 64) 32

/-- The six fault causes of a step (60_exceptions.md R111); `FaultCause.code` gives the value FCAUSE takes. -/
inductive FaultCause where
  | unknownOpcode
  | stackOverflow
  | stackUnderflow
  | fetchOutOfRange
  | dataOutOfRange
  | keyIndexOutOfRange
deriving DecidableEq, Repr

/-- The outcome of a step as the `status` port shows it (R26, R60): a fault with the 3-bit code. -/
inductive StepStatus where
  | executed
  | waiting
  | fault (code : BitVec 3)
deriving DecidableEq, Repr

/-- The machine state. -/
structure State where
  /-- V[0..15] (R11, R12) -/
  v : Vector Byte 16
  /-- I (R15) -/
  i : Word
  /-- PC (R13, R14) -/
  pc : Word
  /-- STACK[0..15] (R16) -/
  stack : Vector Word 16
  /-- SP, the current depth, 0 to 16 (R17) -/
  sp : Fin 17
  /-- FB[0..2047] (R23, R107) -/
  fb : FrameBuffer
  /-- DT, the delay timer (R18) -/
  dt : Byte
  /-- ST, the sound timer (R19) -/
  st : Byte
  /-- KEY[0..15], slot `k` is bit `k` (R24) -/
  key : BitVec 16
  /-- IR, the opcode register (R20) -/
  ir : Word
  /-- REDRAW (R21) -/
  redraw : Bool
  /-- HALT (R22) -/
  halt : Bool
  /-- FCAUSE (R22, R111) -/
  fcause : BitVec 3
  /-- MEM (R30), its listed cells -/
  mem : Memory
  /-- the `status` port: the outcome of the last step, absent before the first (R26; log entry 3) -/
  status : Option StepStatus
  /-- the `key` port: the words the host writes before the coming steps, one taken by each (R26, R62; log entry 1) -/
  keyIn : List (BitVec 16)
  /-- the `rnd` port: the bytes the host supplies for the coming draws, one taken by each (R25, R26; log entry 2) -/
  rndIn : List Byte
  /-- how many draws the host has supplied no byte for: the index of the free value (log entry 2) -/
  draws : Nat
  /-- whether a reset has been performed: `load` and `step` have no meaning before the first (R132; log entry 12) -/
  wasReset : Bool
deriving DecidableEq, Repr

/-- Reasons a step stops WITHOUT a next state: none. Every fault of 60_exceptions.md has an entry the spec describes
(R116), which the model takes as a next state (log entry 4), and R60 makes the step total. No constructor: safe. -/
inductive Fault
deriving DecidableEq, Repr

/-- Reasons an instruction, or a request of the host, has no meaning in this model. -/
inductive Refusal where
  /-- raised by an arm of `exec` for an instruction without a meaning; no arm does (safe: the machine stops) -/
  | notModelled (mnemonic : String)
  /-- raised by `step` and by `load` on an engine that was never reset, where the source says "undefined" and the spec
  refuses (R132, decision D27); no instruction raises it (safe: the machine stops) -/
  | beforeReset
deriving DecidableEq, Repr

/-- The state after `reset` and before `load`: the table of 10_state.md R27. Memory lists nothing, since an unlisted
address reads as its reset contents. No value is left open but the model's own fields (log entries 1, 2, 3); that a reset was performed is what R127 does
(log entry 12). -/
def State.reset : State where
  v := Vector.replicate 16 0
  i := 0
  pc := 0x200
  stack := Vector.replicate 16 0
  sp := 0
  fb := Vector.replicate 32 0
  dt := 0
  st := 0
  key := 0
  ir := 0
  redraw := false
  halt := false
  fcause := 0
  mem := []
  status := none
  keyIn := []
  rndIn := []
  draws := 0
  wasReset := true

end Sys2Proof.Machine
end

