-- ==== Sys2Proof/Machine/Ops.lean ====
section
/-! DEFINITION. The named operations over memory and state that every meaning is written with: byte reads and writes,
register access, the hardware stack, the ends of the execute phase, TAKING A FAULT (R116), and the phases of a step. -/

namespace Sys2Proof.Machine

/-! ## Memory (20_memory.md) -/

/-- What an unlisted address reads as: its reset contents (R27, R127), the font table at `[0x050, 0x0A0)` and 0 elsewhere.
Above 0xFFF there is no byte (R32); every access is range checked before it comes here (log entry 22). -/
def Memory.unlisted (a : Nat) : Byte :=
  if h : 0x050 ≤ a ∧ a < 0x0A0 then Config.font[a - 0x050]'(by omega) else 0

/-- `MEM[a]` (R32). -/
def Memory.read : Memory → Nat → Byte
  | [], a => Memory.unlisted a
  | (b, w) :: m, a => if b = a then w else Memory.read m a

/-- `MEM[a] <- w` (R32), keeping the canonical form: a byte equal to the unlisted value is not listed. -/
def Memory.write : Memory → Nat → Byte → Memory
  | [], a, w => if w = Memory.unlisted a then [] else [(a, w)]
  | (b, u) :: m, a, w =>
    if a < b then (if w = Memory.unlisted a then (b, u) :: m else (a, w) :: (b, u) :: m)
    else if a = b then (if w = Memory.unlisted a then m else (a, w) :: m)
    else (b, u) :: Memory.write m a w

/-- The canonical form: strictly rising addresses of the 4096-byte space (R30), no cell that reads as unlisted. -/
abbrev Memory.wf (m : Memory) : Prop :=
  m.Pairwise (fun c d => c.1 < d.1) ∧ ∀ c ∈ m, c.1 < Config.memSize ∧ c.2 ≠ Memory.unlisted c.1

/-- Bytes stored one after the other in ascending address order (R34). -/
def Memory.writeBytes : Memory → Nat → List Byte → Memory
  | m, _, [] => m
  | m, a, b :: bs => Memory.writeBytes (Memory.write m a b) (a + 1) bs

/-- The two bytes at `a` and `a + 1`, high byte first (R33). -/
def Memory.readWord (m : Memory) (a : Nat) : Word := wordOfBytes (m.read a) (m.read (a + 1))

/-! ## Framebuffer cells (R107) -/

/-- `FB[k]`, the cell `k = row * 64 + col`; there are 2048. -/
def FrameBuffer.cell (f : FrameBuffer) (k : Nat) : Bool :=
  if h : k < 2048 then (f[k / 64]'(by omega)).getLsbD (k % 64) else false

/-- `FB[k] <- FB[k] xor 1`. -/
def FrameBuffer.toggle (f : FrameBuffer) (k : Nat) : FrameBuffer :=
  if h : k < 2048 then f.set (k / 64) ((f[k / 64]'(by omega)) ^^^ BitVec.twoPow 64 (k % 64)) (by omega) else f

/-- All 2048 cells 0. -/
def FrameBuffer.clear : FrameBuffer := Vector.replicate 32 0

/-! ## Registers (R11: no register is hard-wired) -/

/-- `V[r]`. -/
def State.getV (s : State) (r : Reg) : Byte := s.v[r.val]

/-- `V[r] <- b`. -/
def State.setV (s : State) (r : Reg) (b : Byte) : State := { s with v := s.v.set r.val b }

/-- `I <- w`. -/
def State.setI (s : State) (w : Word) : State := { s with i := w }

/-- `DT <- b`. -/
def State.setDt (s : State) (b : Byte) : State := { s with dt := b }

/-- `ST <- b`. -/
def State.setSt (s : State) (b : Byte) : State := { s with st := b }

/-- `IR <- w`. -/
def State.setIr (s : State) (w : Word) : State := { s with ir := w }

/-- `MEM <- m`, memory after the stores of an instruction. -/
def State.setMem (s : State) (m : Memory) : State := { s with mem := m }

/-- A framebuffer write: the new cells, and `REDRAW <- 1`, which both instructions that write FB set (R67). -/
def State.setFb (s : State) (fb : FrameBuffer) : State := { s with fb := fb, redraw := true }

/-! ## The hardware stack (R16, R17) -/

/-- `STACK[k]`. -/
def State.getStack (s : State) (k : Fin 16) : Word := s.stack[k.val]

/-- The push of R87 where there is room: `STACK[SP] <- w; SP <- SP + 1`; at the bound there is no entry to write. -/
def State.push (s : State) (w : Word) : Option State :=
  if h : s.sp.val < 16 then
    some { s with stack := s.stack.set s.sp.val w, sp := ⟨s.sp.val + 1, by omega⟩ }
  else none

/-- The pop of R85 where an entry is live: `SP <- SP - 1`, then the entry `STACK[SP]`, which keeps its value. -/
def State.pop (s : State) : Option (Word × State) :=
  if h : 0 < s.sp.val then
    some (s.stack[s.sp.val - 1]'(by omega), { s with sp := ⟨s.sp.val - 1, by omega⟩ })
  else none

/-! ## The three ends of the execute phase (R65) -/

/-- The instruction completes with `PC <- target`. -/
def State.finishAt (s : State) (target : Word) : State := { s with pc := target, status := some .executed }

/-- The instruction completes with `PC <- (PC + 2) mod 65536` (R13). -/
def State.advance (s : State) : State := s.finishAt (s.pc + 2)

/-- The instruction completes by the skip rule (R89). -/
def State.skipIf (s : State) (c : Bool) : State := s.finishAt (s.pc + if c then 4 else 2)

/-- `wait` (R68): the step ends `Waiting`, PC stays. -/
def State.wait (s : State) : State := { s with status := some .waiting }

/-- The code FCAUSE takes (R111). -/
def FaultCause.code : FaultCause → BitVec 3
  | .unknownOpcode => 1
  | .stackOverflow => 2
  | .stackUnderflow => 3
  | .fetchOutOfRange => 4
  | .dataOutOfRange => 5
  | .keyIndexOutOfRange => 6

/-- TAKING A FAULT (R116): `HALT <- 1; FCAUSE <- code`, outcome `Fault(code)`, and nothing else changes. No pc or status is
saved, there is no handler and no vector; there is no return from a fault, only `reset` (R117, Machine/HostPort.lean). -/
def State.raise (s : State) (c : FaultCause) : State :=
  { s with halt := true, fcause := c.code, status := some (.fault c.code) }

/-! ## The inputs of a step (R60, log entries 1 and 2) -/

/-- `KEY <- key` (R62): the word the host wrote before this step. Where none is pending KEY stands (DESIGN CHOICE): it is what
the host last wrote (R60), or 0 where a reset came after that word was sampled (log entries 1, 11). -/
def State.sampleKeys (s : State) : State :=
  match s.keyIn with
  | [] => s
  | k :: ks => { s with key := k, keyIn := ks }

/-- The byte this draw receives (R25): what the host supplies, else the free value. -/
def State.rndByte (s : State) : Byte :=
  match s.rndIn with
  | [] => Config.freeRnd s.draws
  | b :: _ => b

/-- The draw is taken: the next one receives the next byte. -/
def State.takeRnd (s : State) : State :=
  match s.rndIn with
  | [] => { s with draws := s.draws + 1 }
  | _ :: bs => { s with rndIn := bs }

/-! ## The phases of a step outside the execute phase (40_cycle.md) -/

/-- The step of a halted engine (R61): nothing changes; the port shows `Fault(FCAUSE)` (log entry 20). -/
def State.haltedStep (s : State) : State := { s with status := some (.fault s.fcause) }

/-- The fetch is in range (R63): `PC <= 0xFFE`. -/
def State.canFetch (s : State) : Bool := s.pc.toNat ≤ 0xFFE

/-- The word at PC (R33, R63). -/
def State.fetchWord (s : State) : Word := s.mem.readWord s.pc.toNat

/-- `if T > 0 then T <- T - 1` (R66). -/
def countDown (t : Byte) : Byte := if t = 0 then 0 else t - 1

/-- The timer tick (R66), after an execute phase that completed and after no other. -/
def State.tick (s : State) : State :=
  if s.status = some .executed then { s with dt := countDown s.dt, st := countDown s.st } else s

end Sys2Proof.Machine
end

