-- ==== Sys2Proof/Machine/Operands.lean ====
section
/-! DEFINITION. The operand forms: the zero-extended immediate address (R47), the one addressing mode `I + k` with its
range check (43_memory_access.md, R32), the register block V0..Vx, the keypad index, decimal digits, the glyph address. -/

namespace Sys2Proof.Machine

/-- `nnn` zero-extended to the sixteen bits of PC or I (R47). -/
def zextAddress (nnn : Address) : Word := nnn.setWidth 16

/-- The target of Bnnn: `nnn + V[0]`, a 13-bit sum (R88). -/
def indexedTarget (nnn : Address) (v0 : Byte) : Word := zextAddress nnn + v0.setWidth 16

/-- The effective address of the k-th byte moved through I: over the integers, never reduced (R32). -/
def State.dataAddress (s : State) (k : Nat) : Nat := s.i.toNat + k

/-- All `count` bytes from I on lie in memory: the last one at most 0xFFF. With no byte there is nothing out of range. -/
def State.dataInRange (s : State) (count : Nat) : Bool := count = 0 ∨ s.dataAddress (count - 1) ≤ 0xFFF

/-- Registers 0 to x, ascending (R98, R99). -/
def regsUpTo (x : Reg) : List Reg := (List.range (x.val + 1)).map (Fin.ofNat 16)

/-- The bytes V[0] to V[x]. -/
def State.block (s : State) (x : Reg) : List Byte := (regsUpTo x).map s.getV

/-- Registers of the list loaded in order from memory, `V[r] <- MEM[I + r]`. -/
def State.loadBlock (s : State) (rs : List Reg) : State :=
  rs.foldl (fun t r => t.setV r (s.mem.read (s.dataAddress r.val))) s

/-- `KEY[k]` for a key number in 0..15 (R24, R103). -/
def State.keyHeld (s : State) (k : Byte) : Bool := s.key.getLsbD k.toNat

/-- The key numbers whose slot is 1, ascending. -/
def heldKeys (key : BitVec 16) : List Nat := (List.range 16).filter key.getLsbD

/-- KeyPick (R6 (c), R106, D9): some held key; the free choice of Config decides only where several are held. -/
def keyPick (key : BitVec 16) : Byte :=
  match heldKeys key with
  | [] => 0
  | [k] => BitVec.ofNat 8 k
  | k :: ks => BitVec.ofNat 8 ((k :: ks).getD (Config.keyChoice key % (k :: ks).length) k)

/-- The decimal digits of a byte: hundreds, tens, ones (R97). -/
def decimalDigits (b : Byte) : List Byte :=
  [BitVec.ofNat 8 (b.toNat / 100), BitVec.ofNat 8 (b.toNat / 10 % 10), BitVec.ofNat 8 (b.toNat % 10)]

/-- `V[x] * 5 + 0x50`, with all eight bits of V[x] (R96). -/
def glyphAddress (b : Byte) : Word := BitVec.ofNat 16 (b.toNat * Config.glyphBytes + Config.fontBase)

end Sys2Proof.Machine
end

