-- ==== Sys2Proof/Machine/Arithmetic.lean ====
section
/-! DEFINITION. 41_arithmetic.md: the twelve arithmetic and register instructions. The statements of a rule run in the
written order, the flag first and the result second, each seeing the writes before it (R72, decision D11, log entry 16). -/

namespace Sys2Proof.Machine

/-- R73. -/
def execLdVxKk (x : Reg) (kk : Byte) (s : State) : Host.Outcome State Fault Refusal :=
  .next (s.setV x kk).advance

/-- R74: no flag; the carry is lost. -/
def execAddVxKk (x : Reg) (kk : Byte) (s : State) : Host.Outcome State Fault Refusal :=
  .next (s.setV x (s.getV x + kk)).advance

/-- R75. -/
def execLdVxVy (x y : Reg) (s : State) : Host.Outcome State Fault Refusal :=
  .next (s.setV x (s.getV y)).advance

/-- R76. -/
def execOrVxVy (x y : Reg) (s : State) : Host.Outcome State Fault Refusal :=
  .next (s.setV x (s.getV x ||| s.getV y)).advance

/-- R77. -/
def execAndVxVy (x y : Reg) (s : State) : Host.Outcome State Fault Refusal :=
  .next (s.setV x (s.getV x &&& s.getV y)).advance

/-- R78. -/
def execXorVxVy (x y : Reg) (s : State) : Host.Outcome State Fault Refusal :=
  .next (s.setV x (s.getV x ^^^ s.getV y)).advance

/-- R79: the sum is taken before any write. -/
def execAddVxVy (x y : Reg) (s : State) : Host.Outcome State Fault Refusal :=
  let sum := s.getV x + s.getV y
  let s1 := s.setV VF (carryFlag (s.getV x) (s.getV y))
  .next (s1.setV x sum).advance

/-- R80: the result reads V[x] and V[y] after the flag write. -/
def execSubVxVy (x y : Reg) (s : State) : Host.Outcome State Fault Refusal :=
  let s1 := s.setV VF (greaterFlag (s.getV x) (s.getV y))
  .next (s1.setV x (s1.getV x - s1.getV y)).advance

/-- R81: in place, `y` is neither read nor written. -/
def execShrVx (x _y : Reg) (s : State) : Host.Outcome State Fault Refusal :=
  let s1 := s.setV VF (shiftRightFlag (s.getV x))
  .next (s1.setV x (s1.getV x >>> 1)).advance

/-- R82: the result reads V[x] and V[y] after the flag write. -/
def execSubnVxVy (x y : Reg) (s : State) : Host.Outcome State Fault Refusal :=
  let s1 := s.setV VF (greaterFlag (s.getV y) (s.getV x))
  .next (s1.setV x (s1.getV y - s1.getV x)).advance

/-- R83: in place, `y` is neither read nor written. -/
def execShlVx (x _y : Reg) (s : State) : Host.Outcome State Fault Refusal :=
  let s1 := s.setV VF (shiftLeftFlag (s.getV x))
  .next (s1.setV x (s1.getV x <<< 1)).advance

/-- R84: the byte is the free input of the step. -/
def execRndVxKk (x : Reg) (kk : Byte) (s : State) : Host.Outcome State Fault Refusal :=
  .next (s.takeRnd.setV x (s.rndByte &&& kk)).advance

end Sys2Proof.Machine
end

