-- ==== Sys2Proof/Machine/ControlFlow.lean ====
section
/-! DEFINITION. 42_control_flow.md: transfers through the hardware stack and the register skips (rule R89). -/

namespace Sys2Proof.Machine

/-- R85: pop, then past the call; StackUnderflow on an empty stack, before any write (R114). -/
def execRet (s : State) : Host.Outcome State Fault Refusal :=
  match s.pop with
  | none => .next (s.raise .stackUnderflow)
  | some (caller, s1) => .next (s1.finishAt (caller + 2))

/-- R86. -/
def execJpNnn (nnn : Address) (s : State) : Host.Outcome State Fault Refusal :=
  .next (s.finishAt (zextAddress nnn))

/-- R87: the address of the call itself is pushed; StackOverflow at depth 16, before any write (R114). -/
def execCallNnn (nnn : Address) (s : State) : Host.Outcome State Fault Refusal :=
  match s.push s.pc with
  | none => .next (s.raise .stackOverflow)
  | some s1 => .next (s1.finishAt (zextAddress nnn))

/-- R88: the sum is not reduced modulo 4096. -/
def execJpV0Nnn (nnn : Address) (s : State) : Host.Outcome State Fault Refusal :=
  .next (s.finishAt (indexedTarget nnn (s.getV 0)))

/-- R90. -/
def execSeVxKk (x : Reg) (kk : Byte) (s : State) : Host.Outcome State Fault Refusal :=
  .next (s.skipIf (s.getV x == kk))

/-- R91. -/
def execSneVxKk (x : Reg) (kk : Byte) (s : State) : Host.Outcome State Fault Refusal :=
  .next (s.skipIf (s.getV x != kk))

/-- R92. -/
def execSeVxVy (x y : Reg) (s : State) : Host.Outcome State Fault Refusal :=
  .next (s.skipIf (s.getV x == s.getV y))

/-- R93. -/
def execSneVxVy (x y : Reg) (s : State) : Host.Outcome State Fault Refusal :=
  .next (s.skipIf (s.getV x != s.getV y))

end Sys2Proof.Machine
end

