-- ==== Sys2Proof/Machine/IndexMemory.lean ====
section
/-! DEFINITION. 43_memory_access.md: the index register, the decimal split, and the block store and load. The whole range
of an access is checked before the first byte moves (R32, R115). -/

namespace Sys2Proof.Machine

/-- R94. -/
def execLdINnn (nnn : Address) (s : State) : Host.Outcome State Fault Refusal :=
  .next (s.setI (zextAddress nnn)).advance

/-- R95: the flag from the unreduced sum, then I modulo 65536 with V[x] read after the flag write. -/
def execAddIVx (x : Reg) (s : State) : Host.Outcome State Fault Refusal :=
  let s1 := s.setV VF (indexFlag s.i (s.getV x))
  .next (s1.setI (s1.i + (s1.getV x).setWidth 16)).advance

/-- R96. -/
def execLdFVx (x : Reg) (s : State) : Host.Outcome State Fault Refusal :=
  .next (s.setI (glyphAddress (s.getV x))).advance

/-- R97: three bytes at I, I is unchanged. -/
def execBcdVx (x : Reg) (s : State) : Host.Outcome State Fault Refusal :=
  if s.dataInRange 3 then
    .next (s.setMem (s.mem.writeBytes (s.dataAddress 0) (decimalDigits (s.getV x)))).advance
  else .next (s.raise .dataOutOfRange)

/-- R98: V[0] to V[x] at I, then `I <- I + x + 1`. -/
def execStmVx (x : Reg) (s : State) : Host.Outcome State Fault Refusal :=
  if s.dataInRange (x.val + 1) then
    let s1 := s.setMem (s.mem.writeBytes (s.dataAddress 0) (s.block x))
    .next (s1.setI (s1.i + BitVec.ofNat 16 (x.val + 1))).advance
  else .next (s.raise .dataOutOfRange)

/-- R99: V[0] to V[x] from I, then `I <- I + x + 1`. -/
def execLdmVx (x : Reg) (s : State) : Host.Outcome State Fault Refusal :=
  if s.dataInRange (x.val + 1) then
    let s1 := s.loadBlock (regsUpTo x)
    .next (s1.setI (s1.i + BitVec.ofNat 16 (x.val + 1))).advance
  else .next (s.raise .dataOutOfRange)

end Sys2Proof.Machine
end

