-- ==== Sys2Proof/Machine/Sprite.lean ====
section
/-! DEFINITION. 45_sprite_drawing.md: the framebuffer clear and the rasterizer, pixel by pixel as R109 writes it. The wraps
and the order of the bits of a sprite byte are the spec's decisions D12, D13, D14 (log entry 15). -/

namespace Sys2Proof.Machine

/-- What the rasterizer carries from pixel to pixel: the framebuffer, and `hit`. -/
structure Raster where
  fb : FrameBuffer
  hit : Bool
deriving DecidableEq, Repr

/-- The cell of sprite row `r`, pixel `c`, drawn at `(x0, y0)`: both coordinates wrap (R109 (a), (b)). -/
def spriteCell (x0 y0 r c : Nat) : Nat := (y0 + r) % Config.fbRows * Config.fbCols + (x0 + c) % Config.fbCols

/-- One sprite bit: a 1 inverts its cell and reports a cell that was set; bit 7 is pixel 0 (R109 (c)). -/
def drawPixel (x0 y0 r : Nat) (b : Byte) (k : Raster) (c : Nat) : Raster :=
  if b.getLsbD (7 - c) then
    ⟨k.fb.toggle (spriteCell x0 y0 r c), k.hit || k.fb.cell (spriteCell x0 y0 r c)⟩
  else k

/-- The eight pixels of a sprite row. -/
def drawRow (x0 y0 : Nat) (k : Raster) (r : Nat) (b : Byte) : Raster :=
  (List.range 8).foldl (drawPixel x0 y0 r b) k

/-- The n rows of a sprite, row `r` from `MEM[I + r]`. -/
def State.drawRows (s : State) (x0 y0 n : Nat) : Raster :=
  (List.range n).foldl (fun k r => drawRow x0 y0 k r (s.mem.read (s.dataAddress r))) ⟨s.fb, false⟩

/-- R108. -/
def execCls (s : State) : Host.Outcome State Fault Refusal :=
  .next (s.setFb FrameBuffer.clear).advance

/-- R109: the coordinates are read before V[15] is written; no fault when n = 0, whatever I is. -/
def execDrwVxVyN (x y : Reg) (n : Fin 16) (s : State) : Host.Outcome State Fault Refusal :=
  if s.dataInRange n.val then
    let k := s.drawRows (s.getV x).toNat (s.getV y).toNat n.val
    .next ((s.setFb k.fb).setV VF (flagByte k.hit)).advance
  else .next (s.raise .dataOutOfRange)

end Sys2Proof.Machine
end

