-- ==== Sys2Proof/Machine/TimersKeypad.lean ====
section
/-! DEFINITION. 44_timers_keypad.md: timer moves, key tests, and the wait for a key. The tick of the same step follows in
Machine/Cycle.lean (R66). -/

namespace Sys2Proof.Machine

/-- R100. -/
def execLdVxDt (x : Reg) (s : State) : Host.Outcome State Fault Refusal :=
  .next (s.setV x s.dt).advance

/-- R101. -/
def execLdDtVx (x : Reg) (s : State) : Host.Outcome State Fault Refusal :=
  .next (s.setDt (s.getV x)).advance

/-- R102. -/
def execLdStVx (x : Reg) (s : State) : Host.Outcome State Fault Refusal :=
  .next (s.setSt (s.getV x)).advance

/-- R104: an index above 15 faults and is never masked (R103). -/
def execSkpVx (x : Reg) (s : State) : Host.Outcome State Fault Refusal :=
  if (s.getV x).toNat > 15 then .next (s.raise .keyIndexOutOfRange)
  else .next (s.skipIf (s.keyHeld (s.getV x)))

/-- R105: an index above 15 faults and is never masked (R103). -/
def execSknpVx (x : Reg) (s : State) : Host.Outcome State Fault Refusal :=
  if (s.getV x).toNat > 15 then .next (s.raise .keyIndexOutOfRange)
  else .next (s.skipIf (!s.keyHeld (s.getV x)))

/-- R106: `wait` with no key held, else the number of a held key. -/
def execLdVxK (x : Reg) (s : State) : Host.Outcome State Fault Refusal :=
  if s.key = 0 then .next s.wait
  else .next (s.setV x (keyPick s.key)).advance

end Sys2Proof.Machine
end

