-- ==== Sys2Proof/Machine/Cycle.lean ====
section
/-! DEFINITION. The fetch-decode-execute cycle of 40_cycle.md R69, in its own phases. Every step of an engine
that was reset answers a next state: a fault is taken (R116), a halted engine stands still (R61). -/

namespace Sys2Proof.Machine

/-- Phases 2 to 4 on a state whose IR holds the fetched word: decode, execute, tick (R64, R65, R66). -/
def decodeExecute (s : State) : Host.Outcome State Fault Refusal :=
  match decode s.ir with
  | .error _ => .next (s.raise .unknownOpcode)
  | .ok i =>
    match exec i s with
    | .next t => .next t.tick
    | .fault f => .fault f
    | .refused r => .refused r

/-- The phases of a step: halted check, keypad sample, fetch, then the rest (R61, R62, R63). -/
def phases (s : State) : Host.Outcome State Fault Refusal :=
  if s.halt then .next s.haltedStep
  else
    let s0 := s.sampleKeys
    if s0.canFetch then decodeExecute (s0.setIr s0.fetchWord)
    else .next (s0.raise .fetchOutOfRange)

/-- The whole step: its phases, on an engine that was reset; before the first reset a step is refused (R132, D27). -/
def cycle (s : State) : Host.Outcome State Fault Refusal :=
  if s.wasReset then phases s else .refused .beforeReset

/-- The two bytes of a word stored where the next fetch reads them. -/
def State.placeWord (s : State) (w : Word) : State :=
  s.setMem (s.mem.writeBytes s.pc.toNat (bytesOfWord w))

end Sys2Proof.Machine
end

