-- ==== Sys2Proof/Machine/Step.lean ====
section
/-! DEFINITION. The step of the machine, and the placing of one instruction word where it fetches next. -/

namespace Sys2Proof.Machine

/-- One `step` request (40_cycle.md R60, R69). -/
def step (s : State) : Host.Outcome State Fault Refusal := cycle s

/-- `s` with the instruction word of spec/opcode_table.json stored at PC, high byte first (R33; log entry 19). -/
def State.withFetchWord (s : State) (nbits w : Nat) : State := s.placeWord (tableWord nbits w)

end Sys2Proof.Machine
end

