-- ==== Sys2Proof/Machine/HostPort.lean ====
section
/-! DEFINITION. The host's moves between two steps (10_state.md R26, 20_memory.md R40, 92 "The host's liberties"): reset,
load, the key and rnd ports, redraw_ack, and the step request. The host has no other move (D26). -/

namespace Sys2Proof.Machine

/-- The answer of the load port (70_reset_and_hazards.md R130). -/
inductive LoadAnswer where
  | loaded
  | programTooLarge
deriving DecidableEq, Repr

/-- One move of the host. -/
inductive HostAction where
  | reset
  | load (bytes : List Byte)
  | writeKeys (key : BitVec 16)
  | supplyRnd (b : Byte)
  | redrawAck
  | step
deriving DecidableEq, Repr

/-- `reset` (R127, R128): the state of R27 whatever the state before, be it the unspecified one before the first reset, but
for the inputs that are not the engine's. DESIGN CHOICE (log entry 11): port words still pending stay; a key word that a step
has already sampled is forgotten with KEY, so with none pending the next step samples 0; and the free values are not drawn
again from the start (R25: re-seeded, unobservable). -/
def State.hostReset (s : State) : State :=
  { State.reset with keyIn := s.keyIn, rndIn := s.rndIn, draws := s.draws }

/-- `load(bytes)` (R130, R133): the program region from 0x200 on and nothing else; a longer program changes nothing and is
answered so. Before the first reset a load is refused, whatever its length (R132, D27). -/
def State.load (s : State) (bytes : List Byte) : Host.Outcome (LoadAnswer × State) Fault Refusal :=
  if s.wasReset then
    if bytes.length ≤ Config.progMax then .next (.loaded, s.setMem (s.mem.writeBytes Config.progBase bytes))
    else .next (.programTooLarge, s)
  else .refused .beforeReset

/-- The host writes the key port: the word the next step samples (R24, R62). -/
def State.writeKeys (s : State) (k : BitVec 16) : State := { s with keyIn := k :: s.keyIn.drop 1 }

/-- The host supplies the byte of the next draw (R25, R26). -/
def State.supplyRnd (s : State) (b : Byte) : State := { s with rndIn := b :: s.rndIn.drop 1 }

/-- `redraw_ack` clears REDRAW (R21, R26). -/
def State.redrawAck (s : State) : State := { s with redraw := false }

/-- One move of the host. Before the first reset a load and a step are refused; the ports may be written (log entry 12). -/
def hostAct (a : HostAction) (s : State) : Host.Outcome State Fault Refusal :=
  match a with
  | .reset => .next s.hostReset
  | .load bytes =>
    match s.load bytes with
    | .next p => .next p.2
    | .fault f => .fault f
    | .refused r => .refused r
  | .writeKeys k => .next (s.writeKeys k)
  | .supplyRnd b => .next (s.supplyRnd b)
  | .redrawAck => .next s.redrawAck
  | .step => step s

/-- Moves one after the other (R2: the host is a serial driver). -/
def hostRun : List HostAction → State → Host.Outcome State Fault Refusal
  | [], s => .next s
  | a :: as, s =>
    match hostAct a s with
    | .next t => hostRun as t
    | .fault f => .fault f
    | .refused r => .refused r

end Sys2Proof.Machine
end

