-- ==== Sys2Proof/Safety.lean ====
section
/-! DEFINITION. What claims about the machine are stated in: the invariant of its states, the spec's tables of fault
conditions (60_exceptions.md R111) and of register writes (41_arithmetic.md section 3), the formats of 30_encoding.md R46
as numbers, and the set of cells a sprite inverts (45_sprite_drawing.md R110). No definition of the machine uses them. -/

namespace Sys2Proof.Machine

/-! ## Safe states -/

/-- The invariant of every state the machine reaches from reset. -/
structure State.Inv (s : State) : Prop where
  /-- memory keeps its canonical form -/
  memory : s.mem.wf
  /-- HALT is 1 exactly when FCAUSE holds a code (R22) -/
  haltHasCause : s.halt = true ↔ s.fcause ≠ 0
  /-- code 7 is unused (R111) -/
  causeIsListed : s.fcause ≠ 7
  /-- the largest value PC can take (R14) -/
  pcBound : s.pc.toNat ≤ 0x10FE
  /-- every stack entry holds 0 or the address of a call that was fetched (R16, R87) -/
  stackBound : ∀ k : Fin 16, (s.getStack k).toNat ≤ 0xFFE
  /-- a halted engine shows its fault on the status port (R26, R117) -/
  haltIsShown : s.halt = true → s.status = some (.fault s.fcause)
  /-- a fault shown on the status port is the one the engine is halted by -/
  shownIsHalt : ∀ c, s.status = some (.fault c) → s.halt = true ∧ s.fcause = c
  /-- a reset has been performed (R131, R132) -/
  launched : s.wasReset = true

/-- The engine runs: it was reset (R132), and no fault has been raised since (R22). A safe run is one whose states all
run. -/
abbrev State.running (s : State) : Prop := s.wasReset = true ∧ s.halt = false

/-! ## Tables of the spec -/

/-- The execute-phase fault of an instruction in a state, by the condition column of R111. -/
def executeFault (i : Instr) (s : State) : Option FaultCause :=
  match i with
  | .callNnn _ => if s.sp.val = 16 then some .stackOverflow else none
  | .ret => if s.sp.val = 0 then some .stackUnderflow else none
  | .drwVxVyN _ _ n => if n.val > 0 ∧ s.i.toNat + n.val - 1 > 0xFFF then some .dataOutOfRange else none
  | .bcdVx _ => if s.i.toNat + 2 > 0xFFF then some .dataOutOfRange else none
  | .stmVx x | .ldmVx x => if s.i.toNat + x.val > 0xFFF then some .dataOutOfRange else none
  | .skpVx x | .sknpVx x => if (s.getV x).toNat > 15 then some .keyIndexOutOfRange else none
  | _ => none

/-- The fault of a step of a running engine, the first in phase order (R118). -/
def stepFault (s : State) : Option FaultCause :=
  if s.pc.toNat > 0xFFE then some .fetchOutOfRange
  else
    match decode (s.mem.readWord s.pc.toNat) with
    | .error _ => some .unknownOpcode
    | .ok i => executeFault i s

/-- The "writes V" column of 41_arithmetic.md section 3. -/
def writesV (i : Instr) (r : Reg) : Prop :=
  match i with
  | .ldVxKk x _ | .addVxKk x _ | .ldVxVy x _ | .orVxVy x _ | .andVxVy x _ | .xorVxVy x _ | .rndVxKk x _ | .ldVxDt x
  | .ldVxK x => r = x
  | .addVxVy x _ | .subVxVy x _ | .shrVx x _ | .subnVxVy x _ | .shlVx x _ => r = 15 ∨ r = x
  | .drwVxVyN _ _ _ | .addIVx _ => r = 15
  | .ldmVx x => r ≤ x
  | _ => False

/-! ## The formats of R46 as numbers, most significant digit first -/

/-- `op nnn`. -/
def numNnn (op : Nat) (nnn : Address) : Word := BitVec.ofNat 16 (op * 0x1000 + nnn.toNat)
/-- `op x kk`. -/
def numXkk (op : Nat) (x : Reg) (kk : Byte) : Word := BitVec.ofNat 16 (op * 0x1000 + x.val * 0x100 + kk.toNat)
/-- `op x y d`. -/
def numXy (op : Nat) (x y d : Fin 16) : Word := BitVec.ofNat 16 (op * 0x1000 + x.val * 0x100 + y.val * 0x10 + d.val)
/-- `op x low`. -/
def numX (op : Nat) (x : Reg) (low : Nat) : Word := BitVec.ofNat 16 (op * 0x1000 + x.val * 0x100 + low)

/-! ## Sprites -/

/-- Cell `k` is one that a sprite of `n` rows from address `base`, drawn at column `x0` and row `y0`, inverts: the set S of
R110, one cell per 1 bit, read with the wraps and the bit order of R109 (decisions D12, D13, D14, log entry 15). -/
def spriteCovers (m : Memory) (base n x0 y0 k : Nat) : Prop :=
  ∃ r < n, ∃ c < 8, (m.read (base + r)).getLsbD (7 - c) = true ∧ k = (y0 + r) % 32 * 64 + (x0 + c) % 64

end Sys2Proof.Machine
end

