-- ==== Sys2Proof/Certificates/Slice0/Obligations.lean ====
section
/-! DEFINITION. The statements for the provers. A state `s` is any state unless a hypothesis says otherwise; a frame is
written as a record update, `t = { s with … }`, which says that every field not named in it is unchanged. -/

open Sys2Proof Sys2Proof.Machine

/-! ## Encoding and decoding -/

/-- Words written out from the patterns of R50 decode to what they stand for, one or more of every family, and reserved
words to none. -/
def Obligations.SpecWordsDecodeToTheirInstructions : Prop :=
  decode 0x00E0 = .ok .cls ∧ decode 0x00EE = .ok .ret ∧ decode 0x2FFF = .ok (.callNnn 0xFFF) ∧
  decode 0x4A12 = .ok (.sneVxKk 10 0x12) ∧ decode 0x8127 = .ok (.subnVxVy 1 2) ∧ decode 0x8356 = .ok (.shrVx 3 5) ∧
  decode 0xBFFF = .ok (.jpV0Nnn 0xFFF) ∧ decode 0xC30F = .ok (.rndVxKk 3 0x0F) ∧
  decode 0xD12F = .ok (.drwVxVyN 1 2 15) ∧ decode 0xEFA1 = .ok (.sknpVx 15) ∧ decode 0xF165 = .ok (.ldmVx 1) ∧
  decode 0xF90A = .ok (.ldVxK 9) ∧ decode 0x5121 = .error (.unknownOpcode 0x5121) ∧
  decode 0x0000 = .error (.unknownOpcode 0x0000)

/-- No bit of an encoding is dropped: with every operand at every value, decoding the encoding gives the instruction. -/
def Obligations.DecodeOfEncodeIsTheInstruction : Prop :=
  ∀ i : Instr, decode (encode i) = .ok i

/-- Every word has one meaning: a word that decodes is the encoding of what it decodes to. -/
def Obligations.EncodeOfDecodeIsTheWord : Prop :=
  ∀ (w : Word) (i : Instr), decode w = .ok i → encode i = w

/-- A word is an instruction of a row of R50 exactly when `w & mask == match`. -/
def Obligations.DecodeAgreesWithTheOpcodeMap : Prop :=
  ∀ r ∈ opcodeRows, ∀ w : Word,
    (w &&& r.mask = r.value ↔ ∃ i, decode w = .ok i ∧ i.mnemonic = r.mnemonic)

/-- R49: no word is covered by two rows; and the words of 8xy6 and 8xyE that differ in `y` only are the same instruction
with the same effect. -/
def Obligations.RowsNeverOverlapAndShiftsIgnoreY : Prop :=
  (∀ w : Word, ∀ r ∈ opcodeRows, ∀ r' ∈ opcodeRows, r.covers w = true → r'.covers w = true → r = r') ∧
  (∀ (x y y' : Reg) (s : State), ∀ d ∈ [(6 : Fin 16), 14],
    ∃ i i', decode (numXy 8 x y d) = .ok i ∧ decode (numXy 8 x y' d) = .ok i' ∧
      i.mnemonic = i'.mnemonic ∧ exec i s = exec i' s)

/-- The unknown opcodes are the words of the last column of R51's table and no other. -/
def Obligations.UnknownWordsAreTheUnlistedOnes : Prop :=
  ∀ w : Word, decode w = .error (.unknownOpcode w) ↔
    (w.toNat / 0x1000 = 0 ∧ w ≠ 0x00E0 ∧ w ≠ 0x00EE) ∨
    ((w.toNat / 0x1000 = 5 ∨ w.toNat / 0x1000 = 9) ∧ w.toNat % 16 ≠ 0) ∨
    (w.toNat / 0x1000 = 8 ∧ w.toNat % 16 ∈ [8, 9, 10, 11, 12, 13, 15]) ∨
    (w.toNat / 0x1000 = 14 ∧ w.toNat % 256 ∉ [0x9E, 0xA1]) ∨
    (w.toNat / 0x1000 = 15 ∧ w.toNat % 256 ∉ [0x07, 0x0A, 0x15, 0x18, 0x1E, 0x29, 0x33, 0x55, 0x65])

/-! ## Arithmetic and register instructions -/

/-- R73: V[x] becomes kk, nothing else but PC. -/
def Obligations.LoadImmediateWritesKk : Prop :=
  ∀ (x : Reg) (kk : Byte) (s : State),
    decode (numXkk 6 x kk) = .ok (.ldVxKk x kk) ∧
    ∃ t, exec (.ldVxKk x kk) s = .next t ∧ t.getV x = kk ∧ (∀ r, r ≠ x → t.getV r = s.getV r) ∧
      t = { s with v := t.v, pc := s.pc + 2, status := some .executed } ∧ ∀ a, t.mem.read a = s.mem.read a

/-- R74: V[x] becomes the sum modulo 256, V[15] is not written as a flag; and 6xkk then 7x01 leaves (kk + 1) mod 256. -/
def Obligations.AddImmediateWrapsWithoutFlag : Prop :=
  (∀ (x : Reg) (kk : Byte) (s : State),
    decode (numXkk 7 x kk) = .ok (.addVxKk x kk) ∧
    ∃ t, exec (.addVxKk x kk) s = .next t ∧ (t.getV x).toNat = ((s.getV x).toNat + kk.toNat) % 256 ∧
      (∀ r, r ≠ x → t.getV r = s.getV r) ∧
      t = { s with v := t.v, pc := s.pc + 2, status := some .executed } ∧ ∀ a, t.mem.read a = s.mem.read a) ∧
  (∀ (x : Reg) (kk : Byte) (s : State), ∃ t u, exec (.ldVxKk x kk) s = .next t ∧ exec (.addVxKk x 1) t = .next u ∧
    (u.getV x).toNat = (kk.toNat + 1) % 256 ∧ ∀ r, r ≠ x → u.getV r = s.getV r)

/-- R75: V[x] becomes V[y]. -/
def Obligations.CopyWritesVy : Prop :=
  ∀ (x y : Reg) (s : State),
    decode (numXy 8 x y 0) = .ok (.ldVxVy x y) ∧
    ∃ t, exec (.ldVxVy x y) s = .next t ∧ t.getV x = s.getV y ∧ (∀ r, r ≠ x → t.getV r = s.getV r) ∧
      t = { s with v := t.v, pc := s.pc + 2, status := some .executed } ∧ ∀ a, t.mem.read a = s.mem.read a

/-- R76, R77, R78: or, and, exclusive or on all eight bits independently; V[15] is not written as a flag. -/
def Obligations.BitwiseInstructionsActBitByBit : Prop :=
  ∀ (x y : Reg) (s : State),
    decode (numXy 8 x y 1) = .ok (.orVxVy x y) ∧ decode (numXy 8 x y 2) = .ok (.andVxVy x y) ∧
    decode (numXy 8 x y 3) = .ok (.xorVxVy x y) ∧
    ∀ p ∈ [(Instr.orVxVy x y, or), (Instr.andVxVy x y, and), (Instr.xorVxVy x y, Bool.xor)],
      ∃ t, exec p.1 s = .next t ∧
        (∀ k < 8, (t.getV x).getLsbD k = p.2 ((s.getV x).getLsbD k) ((s.getV y).getLsbD k)) ∧
        (∀ r, r ≠ x → t.getV r = s.getV r) ∧
        t = { s with v := t.v, pc := s.pc + 2, status := some .executed } ∧ ∀ a, t.mem.read a = s.mem.read a

/-- R79: the sum modulo 256, and the carry in V[15] unless x = 15, where the last write, the sum, wins. That the sum is
taken before the flag is written, and the outcome with x = 15, rest on the spec's own decision D11 (log entry 16). -/
def Obligations.AddWritesSumAndCarry : Prop :=
  ∀ (x y : Reg) (s : State),
    decode (numXy 8 x y 4) = .ok (.addVxVy x y) ∧
    ∃ t, exec (.addVxVy x y) s = .next t ∧
      (t.getV x).toNat = ((s.getV x).toNat + (s.getV y).toNat) % 256 ∧
      (x ≠ 15 → (t.getV 15).toNat = if (s.getV x).toNat + (s.getV y).toNat > 255 then 1 else 0) ∧
      (∀ r, r ≠ x → r ≠ 15 → t.getV r = s.getV r) ∧
      t = { s with v := t.v, pc := s.pc + 2, status := some .executed } ∧ ∀ a, t.mem.read a = s.mem.read a

/-- R80: the flag is strict; the result reads V[x] and V[y] after the flag write, so an operand that is V[15] enters it as
the new flag. The outcomes with x = 15 or y = 15 are R72's and rest on the spec's own decision D11 (log entry 16). -/
def Obligations.SubWritesStrictFlagThenDifference : Prop :=
  ∀ (x y : Reg) (s : State), ∀ f : Nat, f = (if (s.getV x).toNat > (s.getV y).toNat then 1 else 0) →
    decode (numXy 8 x y 5) = .ok (.subVxVy x y) ∧
    ∃ t, exec (.subVxVy x y) s = .next t ∧
      (t.getV x).toNat = ((if x = 15 then f else (s.getV x).toNat) + 256 -
        (if y = 15 then f else (s.getV y).toNat)) % 256 ∧
      (x ≠ 15 → (t.getV 15).toNat = f) ∧
      (∀ r, r ≠ x → r ≠ 15 → t.getV r = s.getV r) ∧
      t = { s with v := t.v, pc := s.pc + 2, status := some .executed } ∧ ∀ a, t.mem.read a = s.mem.read a

/-- R82: the flag is strict, 1 if V[y] > V[x]; then V[x] becomes V[y] - V[x] modulo 256, both read after the flag write.
The outcomes with x = 15 or y = 15 are R72's and rest on the spec's own decision D11 (log entry 16). -/
def Obligations.SubnWritesStrictFlagThenDifference : Prop :=
  ∀ (x y : Reg) (s : State), ∀ f : Nat, f = (if (s.getV y).toNat > (s.getV x).toNat then 1 else 0) →
    decode (numXy 8 x y 7) = .ok (.subnVxVy x y) ∧
    ∃ t, exec (.subnVxVy x y) s = .next t ∧
      (t.getV x).toNat = ((if y = 15 then f else (s.getV y).toNat) + 256 -
        (if x = 15 then f else (s.getV x).toNat)) % 256 ∧
      (x ≠ 15 → (t.getV 15).toNat = f) ∧
      (∀ r, r ≠ x → r ≠ 15 → t.getV r = s.getV r) ∧
      t = { s with v := t.v, pc := s.pc + 2, status := some .executed } ∧ ∀ a, t.mem.read a = s.mem.read a

/-- R81, R83: V[x] is shifted in place by one, the bit shifted out goes to V[15] first; with x = 15 the shift acts on that
flag, so 8xy6 leaves 0 and 8xyE leaves twice the old bit 7: these two outcomes are R72's and rest on the spec's own decision
D11 (log entry 16). V[y] is neither read nor written but where it is one of these registers. -/
def Obligations.ShiftsMoveOneBitIntoTheFlag : Prop :=
  ∀ (x y : Reg) (s : State),
    decode (numXy 8 x y 6) = .ok (.shrVx x y) ∧ decode (numXy 8 x y 14) = .ok (.shlVx x y) ∧
    (∃ t, exec (.shrVx x y) s = .next t ∧
      (x ≠ 15 → (t.getV x).toNat = (s.getV x).toNat / 2 ∧ (t.getV 15).toNat = (s.getV x).toNat % 2) ∧
      (x = 15 → (t.getV 15).toNat = 0) ∧
      (∀ r, r ≠ x → r ≠ 15 → t.getV r = s.getV r) ∧
      t = { s with v := t.v, pc := s.pc + 2, status := some .executed } ∧ ∀ a, t.mem.read a = s.mem.read a) ∧
    (∃ t, exec (.shlVx x y) s = .next t ∧
      (x ≠ 15 → (t.getV x).toNat = 2 * (s.getV x).toNat % 256 ∧ (t.getV 15).toNat = (s.getV x).toNat / 128) ∧
      (x = 15 → (t.getV 15).toNat = 2 * ((s.getV 15).toNat / 128)) ∧
      (∀ r, r ≠ x → r ≠ 15 → t.getV r = s.getV r) ∧
      t = { s with v := t.v, pc := s.pc + 2, status := some .executed } ∧ ∀ a, t.mem.read a = s.mem.read a)

/-- The rows of R72's table for operands that are V[15], with a = V[x], b = V[y], f = V[15] before the instruction. The
order of the writes is the spec's own decision D11 (log entry 16). -/
def Obligations.FlagRegisterAsOperandFollowsWrittenOrder : Prop :=
  ∀ (x y : Reg) (s : State), x ≠ 15 → y ≠ 15 → ∀ a b f : Nat,
    a = (s.getV x).toNat → b = (s.getV y).toNat → f = (s.getV 15).toNat →
    (∃ t, exec (.addVxVy 15 y) s = .next t ∧ (t.getV 15).toNat = (f + b) % 256) ∧
    (∃ t, exec (.addVxVy x 15) s = .next t ∧ (t.getV x).toNat = (a + f) % 256 ∧
      (t.getV 15).toNat = if a + f > 255 then 1 else 0) ∧
    (∃ t, exec (.addVxVy 15 15) s = .next t ∧ (t.getV 15).toNat = 2 * f % 256) ∧
    (∃ t, exec (.subVxVy 15 y) s = .next t ∧ (t.getV 15).toNat = ((if f > b then 1 else 0) + 256 - b) % 256) ∧
    (∃ t, exec (.subVxVy x 15) s = .next t ∧ (t.getV x).toNat = (a + 256 - (if a > f then 1 else 0)) % 256 ∧
      (t.getV 15).toNat = if a > f then 1 else 0) ∧
    (∃ t, exec (.subVxVy 15 15) s = .next t ∧ (t.getV 15).toNat = 0) ∧
    (∃ t, exec (.subnVxVy 15 y) s = .next t ∧ (t.getV 15).toNat = (b + 256 - (if b > f then 1 else 0)) % 256) ∧
    (∃ t, exec (.subnVxVy x 15) s = .next t ∧ (t.getV x).toNat = ((if f > a then 1 else 0) + 256 - a) % 256 ∧
      (t.getV 15).toNat = if f > a then 1 else 0) ∧
    (∃ t, exec (.subnVxVy 15 15) s = .next t ∧ (t.getV 15).toNat = 0) ∧
    (∃ t, exec (.addIVx 15) s = .next t ∧ (t.getV 15).toNat = (if s.i.toNat + f > 0xFFF then 1 else 0) ∧
      t.i.toNat = (s.i.toNat + (if s.i.toNat + f > 0xFFF then 1 else 0)) % 65536)

/-- R84: V[x] becomes the byte of the `rnd` port masked by kk, whatever that byte is; in every case no bit outside kk is
set. The byte is an open input (decision D16, log entry 2). -/
def Obligations.RandomByteIsMaskedByKk : Prop :=
  (∀ (x : Reg) (kk b : Byte) (rest : List Byte) (s : State), s.rndIn = b :: rest →
    ∃ t, exec (.rndVxKk x kk) s = .next t ∧ t.getV x = b &&& kk ∧ (∀ r, r ≠ x → t.getV r = s.getV r) ∧
      t = { s with v := t.v, pc := s.pc + 2, status := some .executed, rndIn := rest } ∧
      ∀ a, t.mem.read a = s.mem.read a) ∧
  (∀ (x : Reg) (kk : Byte) (s : State),
    ∃ t, exec (.rndVxKk x kk) s = .next t ∧ (∀ k < 8, (t.getV x).getLsbD k = true → kk.getLsbD k = true) ∧
      (∀ r, r ≠ x → t.getV r = s.getV r) ∧
      t = { s with v := t.v, pc := s.pc + 2, status := some .executed, rndIn := t.rndIn, draws := t.draws } ∧
      ∀ a, t.mem.read a = s.mem.read a)

/-! ## Control flow -/

/-- R85: with a live entry, SP goes down by one, PC is the popped entry plus 2, and the entry keeps its value; with none,
StackUnderflow before any write (the spec's own decision D6, log entry 14). -/
def Obligations.ReturnPopsAndStepsPastTheCall : Prop :=
  ∀ s : State,
    (∀ k : Fin 16, s.sp.val = k.val + 1 →
      ∃ t, exec .ret s = .next t ∧ t.sp.val = k.val ∧ t.pc = s.getStack k + 2 ∧
        t = { s with sp := t.sp, pc := t.pc, status := some .executed } ∧ ∀ a, t.mem.read a = s.mem.read a) ∧
    (s.sp.val = 0 → exec .ret s = .next { s with halt := true, fcause := 3, status := some (.fault 3) })

/-- R86: PC becomes nnn, nothing else changes. -/
def Obligations.JumpSetsPcToNnn : Prop :=
  ∀ (nnn : Address) (s : State),
    decode (numNnn 1 nnn) = .ok (.jpNnn nnn) ∧
    ∃ t, exec (.jpNnn nnn) s = .next t ∧ t.pc.toNat = nnn.toNat ∧
      t = { s with pc := t.pc, status := some .executed } ∧ ∀ a, t.mem.read a = s.mem.read a

/-- R87: the address of the call itself is pushed, SP goes up by one, PC becomes nnn; at depth 16, StackOverflow before
any write (the spec's own decision D5, log entry 14). -/
def Obligations.CallPushesItsOwnAddress : Prop :=
  ∀ (nnn : Address) (s : State),
    (∀ k : Fin 16, s.sp.val = k.val →
      ∃ t, exec (.callNnn nnn) s = .next t ∧ t.getStack k = s.pc ∧ (∀ j, j ≠ k → t.getStack j = s.getStack j) ∧
        t.sp.val = s.sp.val + 1 ∧ t.pc.toNat = nnn.toNat ∧
        t = { s with stack := t.stack, sp := t.sp, pc := t.pc, status := some .executed } ∧
        ∀ a, t.mem.read a = s.mem.read a) ∧
    (s.sp.val = 16 → exec (.callNnn nnn) s = .next { s with halt := true, fcause := 2, status := some (.fault 2) })

/-- The round trip of R85: 2nnn then 00EE restores PC to exactly (original PC + 2), and SP to its value before the call;
every other register and memory is as before. Room on the stack is a premise. -/
def Obligations.CallThenReturnResumesAfterTheCall : Prop :=
  ∀ (nnn : Address) (s : State), s.sp.val < 16 →
    ∃ t u, exec (.callNnn nnn) s = .next t ∧ exec .ret t = .next u ∧
      u = { s with stack := t.stack, pc := s.pc + 2, status := some .executed }

/-- R88: PC becomes nnn + V[0], not reduced modulo 4096. -/
def Obligations.IndexedJumpAddsV0 : Prop :=
  ∀ (nnn : Address) (s : State),
    decode (numNnn 11 nnn) = .ok (.jpV0Nnn nnn) ∧
    ∃ t, exec (.jpV0Nnn nnn) s = .next t ∧ t.pc.toNat = nnn.toNat + (s.getV 0).toNat ∧
      t = { s with pc := t.pc, status := some .executed } ∧ ∀ a, t.mem.read a = s.mem.read a

/-- R90 to R93: PC advances by 4 where the comparison holds and by 2 where it does not; nothing else changes. -/
def Obligations.RegisterSkipsAdvanceByFourOrTwo : Prop :=
  ∀ (x y : Reg) (kk : Byte) (s : State),
    decode (numXkk 3 x kk) = .ok (.seVxKk x kk) ∧ decode (numXkk 4 x kk) = .ok (.sneVxKk x kk) ∧
    decode (numXy 5 x y 0) = .ok (.seVxVy x y) ∧ decode (numXy 9 x y 0) = .ok (.sneVxVy x y) ∧
    (∀ d : Fin 16, d ≠ 0 → decode (numXy 5 x y d) = .error (.unknownOpcode (numXy 5 x y d)) ∧
      decode (numXy 9 x y d) = .error (.unknownOpcode (numXy 9 x y d))) ∧
    ∀ p ∈ [(Instr.seVxKk x kk, decide ((s.getV x).toNat = kk.toNat)),
           (Instr.sneVxKk x kk, decide ((s.getV x).toNat ≠ kk.toNat)),
           (Instr.seVxVy x y, decide ((s.getV x).toNat = (s.getV y).toNat)),
           (Instr.sneVxVy x y, decide ((s.getV x).toNat ≠ (s.getV y).toNat))],
      ∃ t, exec p.1 s = .next t ∧ t.pc.toNat = (s.pc.toNat + if p.2 then 4 else 2) % 65536 ∧
        t = { s with pc := t.pc, status := some .executed } ∧ ∀ a, t.mem.read a = s.mem.read a

/-! ## Index register and memory -/

/-- R94: I becomes nnn. -/
def Obligations.LoadIndexWritesNnn : Prop :=
  ∀ (nnn : Address) (s : State),
    decode (numNnn 10 nnn) = .ok (.ldINnn nnn) ∧
    ∃ t, exec (.ldINnn nnn) s = .next t ∧ t.i.toNat = nnn.toNat ∧
      t = { s with i := t.i, pc := s.pc + 2, status := some .executed } ∧ ∀ a, t.mem.read a = s.mem.read a

/-- R95: the flag from the unreduced sum, then I plus V[x] (the new flag where x = 15) modulo 65536, never masked to 12
bits (the reading of decision D22, log entry 17). That x = 15 adds the new flag is R72's and rests on the spec's own
decision D11 (log entry 16). -/
def Obligations.AddIndexFlagsThe12BitRange : Prop :=
  ∀ (x : Reg) (s : State), ∀ f : Nat, f = (if s.i.toNat + (s.getV x).toNat > 0xFFF then 1 else 0) →
    ∃ t, exec (.addIVx x) s = .next t ∧ (t.getV 15).toNat = f ∧
      t.i.toNat = (s.i.toNat + (if x = 15 then f else (s.getV x).toNat)) % 65536 ∧
      (∀ r, r ≠ 15 → t.getV r = s.getV r) ∧
      t = { s with v := t.v, i := t.i, pc := s.pc + 2, status := some .executed } ∧
      ∀ a, t.mem.read a = s.mem.read a

/-- R96: I becomes V[x] * 5 + 0x50 for all 256 values of V[x]; memory is not read. -/
def Obligations.GlyphAddressUsesAllEightBits : Prop :=
  ∀ (x : Reg) (s : State),
    decode (numX 15 x 0x29) = .ok (.ldFVx x) ∧
    ∃ t, exec (.ldFVx x) s = .next t ∧ t.i.toNat = (s.getV x).toNat * 5 + 0x50 ∧
      t = { s with i := t.i, pc := s.pc + 2, status := some .executed } ∧ ∀ a, t.mem.read a = s.mem.read a

/-- R97: the three decimal digits at I, I + 1, I + 2 and no other byte. The address stored to is `s.dataAddress 0`, which
the meaning uses; that it is I is said too. The memory is in its canonical form. -/
def Obligations.BcdStoresTheDecimalDigits : Prop :=
  ∀ (x : Reg) (s : State), s.mem.wf → s.i.toNat + 2 ≤ 0xFFF →
    ∃ t, exec (.bcdVx x) s = .next t ∧ ∀ a, s.dataAddress 0 = a →
      a = s.i.toNat ∧
      (t.mem.read a).toNat = (s.getV x).toNat / 100 ∧
      (t.mem.read (a + 1)).toNat = (s.getV x).toNat / 10 % 10 ∧
      (t.mem.read (a + 2)).toNat = (s.getV x).toNat % 10 ∧
      (∀ b, b < a ∨ a + 3 ≤ b → t.mem.read b = s.mem.read b) ∧
      t = { s with mem := t.mem, pc := s.pc + 2, status := some .executed }

/-- R98: V[0] to V[x] at I to I + x and no other byte, then I plus x + 1. The memory is in its canonical form. -/
def Obligations.BlockStoreWritesV0ToVx : Prop :=
  ∀ (x : Reg) (s : State), s.mem.wf → s.i.toNat + x.val ≤ 0xFFF →
    ∃ t, exec (.stmVx x) s = .next t ∧ t.i.toNat = s.i.toNat + x.val + 1 ∧
      ∀ a, s.dataAddress 0 = a →
        a = s.i.toNat ∧ (∀ r : Reg, r ≤ x → t.mem.read (a + r.val) = s.getV r) ∧
        (∀ b, b < a ∨ a + (x.val + 1) ≤ b → t.mem.read b = s.mem.read b) ∧
        t = { s with mem := t.mem, i := t.i, pc := s.pc + 2, status := some .executed }

/-- R99: V[0] to V[x] from I to I + x, then I plus x + 1; every other register and all of memory as before. -/
def Obligations.BlockLoadReadsV0ToVx : Prop :=
  ∀ (x : Reg) (s : State), s.i.toNat + x.val ≤ 0xFFF →
    ∃ t, exec (.ldmVx x) s = .next t ∧ t.i.toNat = s.i.toNat + x.val + 1 ∧
      (∀ r : Reg, r ≤ x → t.getV r = s.mem.read (s.i.toNat + r.val)) ∧
      (∀ r : Reg, ¬ r ≤ x → t.getV r = s.getV r) ∧
      t = { s with v := t.v, i := t.i, pc := s.pc + 2, status := some .executed } ∧
      ∀ a, t.mem.read a = s.mem.read a

/-- A store and a load of the same block, with I set back by an Annn in between (R136), leave every register as it was. -/
def Obligations.BlockStoreThenLoadRestoresRegisters : Prop :=
  ∀ (x : Reg) (nnn : Address) (s : State), s.mem.wf → s.i = nnn.setWidth 16 → nnn.toNat + x.val ≤ 0xFFF →
    ∃ t u w, exec (.stmVx x) s = .next t ∧ exec (.ldINnn nnn) t = .next u ∧ exec (.ldmVx x) u = .next w ∧
      w.v = s.v ∧ w.mem = t.mem ∧ w.i.toNat = nnn.toNat + x.val + 1

/-- R32, R97, R98, R99, R109: a data access whose last byte lies above 0xFFF raises DataOutOfRange and changes nothing
else: no byte, no cell, no register. The fault is the spec's own decision D7 (log entry 14). -/
def Obligations.DataAccessAboveFffFaultsWhole : Prop :=
  ∀ (x y : Reg) (n : Fin 16) (s t : State), t = { s with halt := true, fcause := 5, status := some (.fault 5) } →
    (s.i.toNat + 2 > 0xFFF → exec (.bcdVx x) s = .next t) ∧
    (s.i.toNat + x.val > 0xFFF → exec (.stmVx x) s = .next t ∧ exec (.ldmVx x) s = .next t) ∧
    (n.val > 0 → s.i.toNat + n.val - 1 > 0xFFF → exec (.drwVxVyN x y n) s = .next t)

/-! ## Timers and keypad -/

/-- R100: V[x] becomes DT as the previous tick left it; the tick of the same step comes after the read. -/
def Obligations.DelayTimerIsReadBeforeTheTick : Prop :=
  ∀ (x : Reg) (s : State),
    decode (numX 15 x 0x07) = .ok (.ldVxDt x) ∧
    (∃ t, exec (.ldVxDt x) s = .next t ∧ t.getV x = s.dt ∧ (∀ r, r ≠ x → t.getV r = s.getV r) ∧
      t = { s with v := t.v, pc := s.pc + 2, status := some .executed } ∧ ∀ a, t.mem.read a = s.mem.read a) ∧
    (s.running → s.pc.toNat ≤ 0xFFE → s.mem.readWord s.pc.toNat = numX 15 x 0x07 →
      ∃ t, step s = .next t ∧ t.getV x = s.dt ∧ t.dt.toNat = s.dt.toNat - 1)

/-- R101, R102: the execute phase writes the timer with V[x], and nothing else but PC; the tick is the step's. -/
def Obligations.TimerLoadsWriteOnlyTheirTimer : Prop :=
  ∀ (x : Reg) (s : State),
    (∃ t, exec (.ldDtVx x) s = .next t ∧ t.dt = s.getV x ∧
      t = { s with dt := t.dt, pc := s.pc + 2, status := some .executed } ∧ ∀ a, t.mem.read a = s.mem.read a) ∧
    (∃ t, exec (.ldStVx x) s = .next t ∧ t.st = s.getV x ∧
      t = { s with st := t.st, pc := s.pc + 2, status := some .executed } ∧ ∀ a, t.mem.read a = s.mem.read a)

/-- R103 to R105: with a key number in 0..15, skip by the state of that key; above 15, KeyIndexOutOfRange before any
write, never masked (the spec's own decision D8, log entry 14). -/
def Obligations.KeypadSkipsTestTheNumberedKey : Prop :=
  ∀ (x : Reg) (s : State),
    ((s.getV x).toNat ≤ 15 → ∀ p ∈ [(Instr.skpVx x, true), (Instr.sknpVx x, false)],
      ∃ t, exec p.1 s = .next t ∧
        t.pc.toNat = (s.pc.toNat + if s.key.getLsbD (s.getV x).toNat = p.2 then 4 else 2) % 65536 ∧
        t = { s with pc := t.pc, status := some .executed } ∧ ∀ a, t.mem.read a = s.mem.read a) ∧
    ((s.getV x).toNat > 15 → ∀ i ∈ [Instr.skpVx x, Instr.sknpVx x],
      exec i s = .next { s with halt := true, fcause := 6, status := some (.fault 6) })

/-- R106: with a key held, V[x] becomes the number of SOME held key (which one, where several are, is open: decision D9,
log entry 6); with none, the step waits and nothing changes (decision D10, log entry 18). -/
def Obligations.WaitForKeyReportsAHeldKey : Prop :=
  ∀ (x : Reg) (s : State),
    ((∃ k < 16, s.key.getLsbD k = true) →
      ∃ t, exec (.ldVxK x) s = .next t ∧ (t.getV x).toNat < 16 ∧ s.key.getLsbD (t.getV x).toNat = true ∧
        (∀ r, r ≠ x → t.getV r = s.getV r) ∧
        t = { s with v := t.v, pc := s.pc + 2, status := some .executed } ∧ ∀ a, t.mem.read a = s.mem.read a) ∧
    ((∀ k < 16, s.key.getLsbD k = false) → exec (.ldVxK x) s = .next { s with status := some .waiting })

/-! ## Framebuffer and sprites -/

/-- R108: every cell 0 and REDRAW 1, whatever they were; V[15] is not written. -/
def Obligations.ClearZeroesEveryCellAndSetsRedraw : Prop :=
  ∀ s : State, decode 0x00E0 = .ok .cls ∧
    ∃ t, exec .cls s = .next t ∧ (∀ k < 2048, t.fb.cell k = false) ∧ t.redraw = true ∧
      t = { s with fb := t.fb, redraw := true, pc := s.pc + 2, status := some .executed } ∧
      ∀ a, t.mem.read a = s.mem.read a

/-- R109 as R110 (b) sums it up: the pixel loop inverts exactly the cells of the sprite, `FB0 xor S`, and V[15] is 1
exactly when one of them was set. With n = 0 nothing is drawn, whatever I is. Wraps and bit order are the spec's own
decisions D12, D13, D14 (log entry 15). -/
def Obligations.DrawXorsTheSpriteAndReportsCollision : Prop :=
  ∀ (x y : Reg) (n : Fin 16) (s : State), (n.val > 0 → s.i.toNat + n.val - 1 ≤ 0xFFF) →
    ∃ t, exec (.drwVxVyN x y n) s = .next t ∧
      (∀ k < 2048, (t.fb.cell k ≠ s.fb.cell k) ↔
        spriteCovers s.mem s.i.toNat n.val (s.getV x).toNat (s.getV y).toNat k) ∧
      ((t.getV 15).toNat = 0 ∨ (t.getV 15).toNat = 1) ∧
      ((t.getV 15).toNat = 1 ↔
        ∃ k < 2048, s.fb.cell k = true ∧ spriteCovers s.mem s.i.toNat n.val (s.getV x).toNat (s.getV y).toNat k) ∧
      (∀ r, r ≠ 15 → t.getV r = s.getV r) ∧
      t = { s with v := t.v, fb := t.fb, redraw := true, pc := s.pc + 2, status := some .executed } ∧
      ∀ a, t.mem.read a = s.mem.read a

/-- R110 (c): the same sprite drawn twice at the same place (neither coordinate in V[15]) restores the framebuffer, and
the second draw reports 1 exactly when some cell of the sprite was 0 before the first. Which cells the sprite inverts rests
on the spec's own decisions D12, D13, D14 (log entry 15). -/
def Obligations.SecondDrawRestoresTheFramebuffer : Prop :=
  ∀ (x y : Reg) (n : Fin 16) (s : State), x ≠ 15 → y ≠ 15 → (n.val > 0 → s.i.toNat + n.val - 1 ≤ 0xFFF) →
    ∃ t u, exec (.drwVxVyN x y n) s = .next t ∧ exec (.drwVxVyN x y n) t = .next u ∧
      (∀ k < 2048, u.fb.cell k = s.fb.cell k) ∧
      ((u.getV 15).toNat = 1 ↔
        ∃ k < 2048, s.fb.cell k = false ∧ spriteCovers s.mem s.i.toNat n.val (s.getV x).toNat (s.getV y).toNat k)

/-! ## The step -/

/-- When the bytes at PC decode to `i`, a step of a running engine is `exec i` on the state with KEY sampled and IR
fetched, followed by the timer tick of a completed execute phase. -/
def Obligations.StepRunsTheDecodedInstruction : Prop :=
  ∀ (s : State) (i : Instr), s.running → s.pc.toNat ≤ 0xFFE → decode (s.mem.readWord s.pc.toNat) = .ok i →
    ∀ t, exec i { s with key := s.keyIn.headD s.key, keyIn := s.keyIn.tail, ir := s.mem.readWord s.pc.toNat } = .next t →
      step s = .next (if t.status = some .executed
        then { t with dt := BitVec.ofNat 8 (t.dt.toNat - 1), st := BitVec.ofNat 8 (t.st.toNat - 1) } else t)

/-- The interface's own fetch helper does what it says: the table word it places is the word at PC, every other byte and
every other field is as before, and the decoder of a table word answers what `decode` answers. The memory is in its
canonical form. -/
def Obligations.PlacedWordIsTheOneFetched : Prop :=
  ∀ (s : State) (w : Word), s.mem.wf → s.pc.toNat ≤ 0xFFE →
    (s.withFetchWord 16 w.toNat).mem.readWord s.pc.toNat = w ∧
    (∀ a, a ≠ s.pc.toNat → a ≠ s.pc.toNat + 1 → (s.withFetchWord 16 w.toNat).mem.read a = s.mem.read a) ∧
    (s.withFetchWord 16 w.toNat) = { s with mem := (s.withFetchWord 16 w.toNat).mem } ∧
    (∀ i, decode w = .ok i → decodeTableWord 16 w.toNat = some i) ∧
    (∀ e, decode w = .error e → decodeTableWord 16 w.toNat = none)

/-- R33: a step of a running engine with PC in range leaves in IR the byte at PC as its high byte and the byte at PC + 1
as its low byte, for odd and even PC alike. That IR still holds the word after a step that waits or faults is the spec's own
decision D28 (R20; log entry 14). -/
def Obligations.FetchIsBigEndian : Prop :=
  ∀ s : State, s.running → s.pc.toNat ≤ 0xFFE →
    ∃ t, step s = .next t ∧ t.ir.toNat = (s.mem.read s.pc.toNat).toNat * 256 + (s.mem.read (s.pc.toNat + 1)).toNat ∧
      t.ir.extractLsb' 8 8 = s.mem.read s.pc.toNat ∧ t.ir.extractLsb' 0 8 = s.mem.read (s.pc.toNat + 1)

/-- R60: the step is total: every state of an engine that was reset has a next state. R132: before the first reset a step and
a load have no meaning, so a run of the host that steps or loads before it resets is refused, whatever its moves at the
other ports (the spec's own decision D27, log entry 12). -/
def Obligations.StepsAreTotalAfterResetAndRefusedBefore : Prop :=
  (∀ s : State, s.wasReset = true → ∃ t, step s = .next t) ∧
  (∀ s : State, s.wasReset = false → step s = .refused .beforeReset ∧ ∀ bytes, s.load bytes = .refused .beforeReset) ∧
  (∀ (s : State) (before after : List HostAction) (a : HostAction), s.wasReset = false →
    (∀ m ∈ before, m = .redrawAck ∨ (∃ k, m = .writeKeys k) ∨ ∃ b, m = .supplyRnd b) →
    (a = .step ∨ ∃ bytes, a = .load bytes) → hostRun (before ++ a :: after) s = .refused .beforeReset)

/-- R62: a step of a running engine samples the word the host wrote, once; with none written KEY stands (log entry 1).
The sampling point is the spec's decision D30. -/
def Obligations.KeypadIsSampledOncePerStep : Prop :=
  ∀ s : State, s.running → ∃ t, step s = .next t ∧
    (∀ k ks, s.keyIn = k :: ks → t.key = k ∧ t.keyIn = ks) ∧ (s.keyIn = [] → t.key = s.key ∧ t.keyIn = [])

/-- R61: the step of a halted engine changes nothing and answers Fault(FCAUSE); the status port alone may be written, and
in a state of the invariant not even that (decision D4, log entries 14, 20). -/
def Obligations.HaltedStepChangesNothing : Prop :=
  ∀ s : State, s.wasReset = true → s.halt = true →
    step s = .next { s with status := some (.fault s.fcause) } ∧ (s.Inv → step s = .next s)

/-- R117, of steps: no step leaves a fault, so any number of steps from a halted state of the invariant end in that state.
The run is one of `core`, whose host makes steps and no other move (log entry 10); a reset, which does leave a fault, is not
among its moves (the spec's own decision D4, log entry 14). -/
def Obligations.HaltedRunStandsStill : Prop :=
  ∀ (n : Nat) (s : State), s.Inv → s.halt = true → Host.Core.run Sys2Proof.core n s = .next s

/-- R111, R118: a step of a running engine raises exactly the fault of the first condition in phase order, with its code,
and none where none holds. The codes and conditions are the spec's decisions D2, D5 to D8, D20 (log entry 14). -/
def Obligations.StepFaultsExactlyOnTheListedConditions : Prop :=
  ∀ s : State, s.running → ∃ t, step s = .next t ∧
    (∀ c, stepFault s = some c → t.halt = true ∧ t.fcause = c.code ∧ t.status = some (.fault c.code)) ∧
    (stepFault s = none → t.halt = false ∧ t.fcause = s.fcause ∧
      (t.status = some .executed ∨ t.status = some .waiting))

/-- R116: a step that raises a fault changes nothing but HALT, FCAUSE, the status port, KEY (sampled, the pending word
taken) and IR (fetched, unless the fetch itself faulted): PC, the registers, memory, the stack, the framebuffer and the
timers are as before (decisions D4, D28, log entries 4, 14). -/
def Obligations.FaultEntryChangesNothingElse : Prop :=
  ∀ s : State, s.running → ∀ c, stepFault s = some c →
    step s = .next { s with
      halt := true, fcause := c.code, status := some (.fault c.code),
      key := s.keyIn.headD s.key, keyIn := s.keyIn.tail,
      ir := if s.pc.toNat ≤ 0xFFE then s.mem.readWord s.pc.toNat else s.ir }

/-- R66, R101, R102, R122: after a step of a running engine that completed, a timer is one less than its value after the
execute phase, stopping at 0, where that value is V[x] for the timer's own load and the old value for every other
instruction; after a step that waits or faults both are unchanged (decision D21, log entry 18). -/
def Obligations.TimersTickOncePerCompletedStep : Prop :=
  ∀ (s : State), s.running → ∃ t, step s = .next t ∧
    (t.status ≠ some .executed → t.dt = s.dt ∧ t.st = s.st) ∧
    (t.status = some .executed → ∀ i, decode (s.mem.readWord s.pc.toNat) = .ok i →
      (∀ x, i = .ldDtVx x → t.dt.toNat = (s.getV x).toNat - 1) ∧
      ((∀ x, i ≠ .ldDtVx x) → t.dt.toNat = s.dt.toNat - 1) ∧
      (∀ x, i = .ldStVx x → t.st.toNat = (s.getV x).toNat - 1) ∧
      ((∀ x, i ≠ .ldStVx x) → t.st.toNat = s.st.toNat - 1))

/-- R68, R106: a step that waits changes only KEY (the sample, with no key held), the pending key words, IR (an Fx0A word)
and the status port: PC, memory, registers and timers are as before (decision D10, log entry 18). -/
def Obligations.WaitingStepKeepsPcAndTimers : Prop :=
  ∀ (s t : State), s.running → step s = .next t → t.status = some .waiting →
    t = { s with key := t.key, keyIn := s.keyIn.tail, ir := s.mem.readWord s.pc.toNat, status := some .waiting } ∧
    t.key = 0 ∧ ∃ x, decode t.ir = .ok (.ldVxK x)

/-! ## Whole-machine rules -/

/-- R67: REDRAW is set by every completed 00E0 and Dxyn and by nothing else, and no instruction clears it. -/
def Obligations.RedrawIsSetByClearAndDrawAlone : Prop :=
  (∀ (i : Instr) (s t : State), exec i s = .next t →
    (t.redraw = true ↔ s.redraw = true ∨
      (t.status = some .executed ∧ (i = .cls ∨ ∃ x y n, i = .drwVxVyN x y n)) )) ∧
  (∀ s t : State, step s = .next t → s.redraw = true → t.redraw = true) ∧
  (∀ s t : State, step s = .next t → s.redraw = false → t.redraw = true →
    decode t.ir = .ok .cls ∨ ∃ x y n, decode t.ir = .ok (.drwVxVyN x y n))

/-- The "writes V" column of 41_arithmetic.md section 3 is complete: a register outside it keeps its value, for every
instruction. -/
def Obligations.OnlyTheListedRegistersAreWritten : Prop :=
  ∀ (i : Instr) (s t : State), exec i s = .next t → ∀ r : Reg, ¬ writesV i r → t.getV r = s.getV r

/-- R16, R23, R36, R107, R18, R19, R15: the only instructions that write a stack entry, memory, the framebuffer, a timer
or I are the ones the rules name; and none writes KEY or IR. -/
def Obligations.OnlyTheNamedInstructionsWriteEachSpace : Prop :=
  ∀ (i : Instr) (s t : State), exec i s = .next t →
    (t.stack ≠ s.stack → ∃ nnn, i = .callNnn nnn) ∧
    (t.mem ≠ s.mem → ∃ x, i = .bcdVx x ∨ i = .stmVx x) ∧
    (t.fb ≠ s.fb → i = .cls ∨ ∃ x y n, i = .drwVxVyN x y n) ∧
    (t.dt ≠ s.dt → ∃ x, i = .ldDtVx x) ∧
    (t.st ≠ s.st → ∃ x, i = .ldStVx x) ∧
    (t.i ≠ s.i → (∃ nnn, i = .ldINnn nnn) ∨ ∃ x, i = .addIVx x ∨ i = .ldFVx x ∨ i = .stmVx x ∨ i = .ldmVx x) ∧
    t.key = s.key ∧ t.ir = s.ir

/-- R13: an instruction that completes advances PC by exactly 2 unless it is a jump, call, return or skip; a skip advances
it by 2 or 4. -/
def Obligations.OnlyTransfersAndSkipsLeaveTheLine : Prop :=
  ∀ (i : Instr) (s t : State), exec i s = .next t → t.status = some .executed →
    (∃ nnn, i = .jpNnn nnn ∨ i = .callNnn nnn ∨ i = .jpV0Nnn nnn) ∨ i = .ret ∨ t.pc = s.pc + 2 ∨
    (t.pc = s.pc + 4 ∧ ((∃ x kk, i = .seVxKk x kk ∨ i = .sneVxKk x kk) ∨ (∃ x y, i = .seVxVy x y ∨ i = .sneVxVy x y) ∨
      ∃ x, i = .skpVx x ∨ i = .sknpVx x))

/-- R19, R20, R21: no instruction reads ST, REDRAW or IR as data. Two states that differ in these three only step to
states that differ in these three only. -/
def Obligations.SoundRedrawAndOpcodeRegisterAreNeverRead : Prop :=
  ∀ (s t : State) (st : Byte) (redraw : Bool) (ir : Word), step s = .next t →
    ∃ u, step { s with st := st, redraw := redraw, ir := ir } = .next u ∧
      u = { t with st := u.st, redraw := u.redraw, ir := u.ir }

/-! ## Reset, load and the host's other moves -/

/-- R27, R127, R128: after reset, whatever the state before, every element holds the value of R27's table, FONT at
[0x050, 0x0A0). REDRAW, IR, HALT and FCAUSE rest on the spec's decisions D4, D17, D28; the status port and the record that a
reset was performed are the model's (log entries 3, 12). -/
def Obligations.ResetGivesTheLaunchState : Prop :=
  ∀ s t : State, hostAct .reset s = .next t →
    (∀ a < 0x1000, t.mem.read a = if h : 0x050 ≤ a ∧ a < 0x0A0 then Config.font[a - 0x050]'(by omega) else 0) ∧
    (∀ r, t.getV r = 0) ∧ t.i = 0 ∧ t.pc = 0x200 ∧ (∀ k, t.getStack k = 0) ∧ t.sp.val = 0 ∧
    (∀ k < 2048, t.fb.cell k = false) ∧ t.dt = 0 ∧ t.st = 0 ∧ (∀ k < 16, t.key.getLsbD k = false) ∧ t.ir = 0 ∧
    t.redraw = false ∧ t.halt = false ∧ t.fcause = 0 ∧ t.wasReset = true ∧
    (∀ s' t', hostAct .reset s' = .next t' → t' = { t with keyIn := t'.keyIn, rndIn := t'.rndIn, draws := t'.draws })

/-- R130, R133: a program of at most 3584 bytes goes to [0x200, 0x200 + len) and nothing else changes; a longer one is
answered ProgramTooLarge and changes nothing (decision D19). The engine was reset (R131); the memory is in its canonical
form. -/
def Obligations.LoadPlacesTheProgramAndNothingElse : Prop :=
  ∀ (s : State) (bytes : List Byte), s.wasReset = true → s.mem.wf →
    (bytes.length ≤ 3584 → ∃ t : State, s.load bytes = .next (.loaded, t) ∧
      (∀ j (h : j < bytes.length), t.mem.read (0x200 + j) = bytes[j]) ∧
      (∀ a, a < 0x200 ∨ 0x200 + bytes.length ≤ a → t.mem.read a = s.mem.read a) ∧ t = { s with mem := t.mem }) ∧
    (bytes.length > 3584 → s.load bytes = .next (.programTooLarge, s))

/-- R21, R24, R26, R40 in the model's form of the ports: redraw_ack clears REDRAW and nothing else; a key write changes only
the pending key words, and its word is what the next step of a running engine samples (log entry 1: the list is the model's
choice); an rnd byte changes only the pending bytes, and is what the next draw receives (log entry 2: so is that list, and
that a byte waits for a draw). That the three ports answer a next state on an engine that was never reset too is the model's
choice (log entry 12). -/
def Obligations.HostPortsTouchOnlyTheirOwn : Prop :=
  ∀ (s : State) (k : BitVec 16) (b : Byte),
    hostAct .redrawAck s = .next { s with redraw := false } ∧
    (∃ t, hostAct (.writeKeys k) s = .next t ∧ t = { s with keyIn := t.keyIn } ∧
      (s.running → ∃ u, step t = .next u ∧ u.key = k)) ∧
    (∃ t, hostAct (.supplyRnd b) s = .next t ∧ t = { s with rndIn := t.rndIn } ∧
      ∀ x, ∃ u, exec (.rndVxKk x 0xFF) t = .next u ∧ u.getV x = b)

/-! ## Invariants -/

/-- Canonical memories that read alike at every address are the same list: equal memories are equal data. -/
def Obligations.CanonicalMemoriesThatReadAlikeAreEqual : Prop :=
  ∀ m m' : Memory, m.wf → m'.wf → (∀ a, m.read a = m'.read a) → m = m'

/-- The state after reset satisfies the invariant. -/
def Obligations.ResetSatisfiesTheInvariant : Prop :=
  State.reset.Inv

/-- The invariant is kept by every step, from every state that satisfies it: canonical memory, HALT coherent with FCAUSE
and the status port, PC at most 0x10FE (R14), stack entries that a call can push, a reset performed. -/
def Obligations.EveryStepKeepsTheInvariant : Prop :=
  ∀ s t : State, s.Inv → step s = .next t → t.Inv

/-- The invariant is kept by every sequence of the host's moves, steps among them; and a sequence that begins with a reset
reaches it from every state, the unspecified one before the first reset included (R131, R132). -/
def Obligations.EveryHostRunKeepsTheInvariant : Prop :=
  (∀ (as : List HostAction) (s : State), s.Inv → ∃ t, hostRun as s = .next t ∧ t.Inv) ∧
  (∀ (as : List HostAction) (s : State), ∃ t, hostRun (.reset :: as) s = .next t ∧ t.Inv)
end

