-- ==== Sys2Proof/Laws/State.lean ====
section
/-! SUPPORT. One lemma per field per update of the state, so that no later proof unfolds a record update; and the reads of
the register file and of the stack through each update. -/

namespace Sys2Proof.Machine

variable (s : State)

/-! ### `setV` -/

@[simp] theorem State.setV_v (r : Reg) (b : Byte) : (s.setV r b).v = s.v.set r.val b := rfl
@[simp] theorem State.setV_i (r : Reg) (b : Byte) : (s.setV r b).i = s.i := rfl
@[simp] theorem State.setV_pc (r : Reg) (b : Byte) : (s.setV r b).pc = s.pc := rfl
@[simp] theorem State.setV_stack (r : Reg) (b : Byte) : (s.setV r b).stack = s.stack := rfl
@[simp] theorem State.setV_sp (r : Reg) (b : Byte) : (s.setV r b).sp = s.sp := rfl
@[simp] theorem State.setV_fb (r : Reg) (b : Byte) : (s.setV r b).fb = s.fb := rfl
@[simp] theorem State.setV_dt (r : Reg) (b : Byte) : (s.setV r b).dt = s.dt := rfl
@[simp] theorem State.setV_st (r : Reg) (b : Byte) : (s.setV r b).st = s.st := rfl
@[simp] theorem State.setV_key (r : Reg) (b : Byte) : (s.setV r b).key = s.key := rfl
@[simp] theorem State.setV_ir (r : Reg) (b : Byte) : (s.setV r b).ir = s.ir := rfl
@[simp] theorem State.setV_redraw (r : Reg) (b : Byte) : (s.setV r b).redraw = s.redraw := rfl
@[simp] theorem State.setV_halt (r : Reg) (b : Byte) : (s.setV r b).halt = s.halt := rfl
@[simp] theorem State.setV_fcause (r : Reg) (b : Byte) : (s.setV r b).fcause = s.fcause := rfl
@[simp] theorem State.setV_mem (r : Reg) (b : Byte) : (s.setV r b).mem = s.mem := rfl
@[simp] theorem State.setV_status (r : Reg) (b : Byte) : (s.setV r b).status = s.status := rfl
@[simp] theorem State.setV_keyIn (r : Reg) (b : Byte) : (s.setV r b).keyIn = s.keyIn := rfl
@[simp] theorem State.setV_rndIn (r : Reg) (b : Byte) : (s.setV r b).rndIn = s.rndIn := rfl
@[simp] theorem State.setV_draws (r : Reg) (b : Byte) : (s.setV r b).draws = s.draws := rfl
@[simp] theorem State.setV_wasReset (r : Reg) (b : Byte) : (s.setV r b).wasReset = s.wasReset := rfl
@[simp] theorem State.setV_getV (r : Reg) (b : Byte) (q : Reg) :
    (s.setV r b).getV q = if q = r then b else s.getV q := by
  by_cases h : q = r
  · subst h; simp [State.getV]
  · have h' : r.val ≠ q.val := fun e => h (Fin.ext e.symm)
    simp [State.getV, h, h']
@[simp] theorem State.setV_getStack (r : Reg) (b : Byte) (k : Fin 16) : (s.setV r b).getStack k = s.getStack k := rfl

/-! ### `setI` -/

@[simp] theorem State.setI_v (w : Word) : (s.setI w).v = s.v := rfl
@[simp] theorem State.setI_i (w : Word) : (s.setI w).i = w := rfl
@[simp] theorem State.setI_pc (w : Word) : (s.setI w).pc = s.pc := rfl
@[simp] theorem State.setI_stack (w : Word) : (s.setI w).stack = s.stack := rfl
@[simp] theorem State.setI_sp (w : Word) : (s.setI w).sp = s.sp := rfl
@[simp] theorem State.setI_fb (w : Word) : (s.setI w).fb = s.fb := rfl
@[simp] theorem State.setI_dt (w : Word) : (s.setI w).dt = s.dt := rfl
@[simp] theorem State.setI_st (w : Word) : (s.setI w).st = s.st := rfl
@[simp] theorem State.setI_key (w : Word) : (s.setI w).key = s.key := rfl
@[simp] theorem State.setI_ir (w : Word) : (s.setI w).ir = s.ir := rfl
@[simp] theorem State.setI_redraw (w : Word) : (s.setI w).redraw = s.redraw := rfl
@[simp] theorem State.setI_halt (w : Word) : (s.setI w).halt = s.halt := rfl
@[simp] theorem State.setI_fcause (w : Word) : (s.setI w).fcause = s.fcause := rfl
@[simp] theorem State.setI_mem (w : Word) : (s.setI w).mem = s.mem := rfl
@[simp] theorem State.setI_status (w : Word) : (s.setI w).status = s.status := rfl
@[simp] theorem State.setI_keyIn (w : Word) : (s.setI w).keyIn = s.keyIn := rfl
@[simp] theorem State.setI_rndIn (w : Word) : (s.setI w).rndIn = s.rndIn := rfl
@[simp] theorem State.setI_draws (w : Word) : (s.setI w).draws = s.draws := rfl
@[simp] theorem State.setI_wasReset (w : Word) : (s.setI w).wasReset = s.wasReset := rfl
@[simp] theorem State.setI_getV (w : Word) (q : Reg) : (s.setI w).getV q = s.getV q := rfl
@[simp] theorem State.setI_getStack (w : Word) (k : Fin 16) : (s.setI w).getStack k = s.getStack k := rfl

/-! ### `setDt` -/

@[simp] theorem State.setDt_v (b : Byte) : (s.setDt b).v = s.v := rfl
@[simp] theorem State.setDt_i (b : Byte) : (s.setDt b).i = s.i := rfl
@[simp] theorem State.setDt_pc (b : Byte) : (s.setDt b).pc = s.pc := rfl
@[simp] theorem State.setDt_stack (b : Byte) : (s.setDt b).stack = s.stack := rfl
@[simp] theorem State.setDt_sp (b : Byte) : (s.setDt b).sp = s.sp := rfl
@[simp] theorem State.setDt_fb (b : Byte) : (s.setDt b).fb = s.fb := rfl
@[simp] theorem State.setDt_dt (b : Byte) : (s.setDt b).dt = b := rfl
@[simp] theorem State.setDt_st (b : Byte) : (s.setDt b).st = s.st := rfl
@[simp] theorem State.setDt_key (b : Byte) : (s.setDt b).key = s.key := rfl
@[simp] theorem State.setDt_ir (b : Byte) : (s.setDt b).ir = s.ir := rfl
@[simp] theorem State.setDt_redraw (b : Byte) : (s.setDt b).redraw = s.redraw := rfl
@[simp] theorem State.setDt_halt (b : Byte) : (s.setDt b).halt = s.halt := rfl
@[simp] theorem State.setDt_fcause (b : Byte) : (s.setDt b).fcause = s.fcause := rfl
@[simp] theorem State.setDt_mem (b : Byte) : (s.setDt b).mem = s.mem := rfl
@[simp] theorem State.setDt_status (b : Byte) : (s.setDt b).status = s.status := rfl
@[simp] theorem State.setDt_keyIn (b : Byte) : (s.setDt b).keyIn = s.keyIn := rfl
@[simp] theorem State.setDt_rndIn (b : Byte) : (s.setDt b).rndIn = s.rndIn := rfl
@[simp] theorem State.setDt_draws (b : Byte) : (s.setDt b).draws = s.draws := rfl
@[simp] theorem State.setDt_wasReset (b : Byte) : (s.setDt b).wasReset = s.wasReset := rfl
@[simp] theorem State.setDt_getV (b : Byte) (q : Reg) : (s.setDt b).getV q = s.getV q := rfl
@[simp] theorem State.setDt_getStack (b : Byte) (k : Fin 16) : (s.setDt b).getStack k = s.getStack k := rfl

/-! ### `setSt` -/

@[simp] theorem State.setSt_v (b : Byte) : (s.setSt b).v = s.v := rfl
@[simp] theorem State.setSt_i (b : Byte) : (s.setSt b).i = s.i := rfl
@[simp] theorem State.setSt_pc (b : Byte) : (s.setSt b).pc = s.pc := rfl
@[simp] theorem State.setSt_stack (b : Byte) : (s.setSt b).stack = s.stack := rfl
@[simp] theorem State.setSt_sp (b : Byte) : (s.setSt b).sp = s.sp := rfl
@[simp] theorem State.setSt_fb (b : Byte) : (s.setSt b).fb = s.fb := rfl
@[simp] theorem State.setSt_dt (b : Byte) : (s.setSt b).dt = s.dt := rfl
@[simp] theorem State.setSt_st (b : Byte) : (s.setSt b).st = b := rfl
@[simp] theorem State.setSt_key (b : Byte) : (s.setSt b).key = s.key := rfl
@[simp] theorem State.setSt_ir (b : Byte) : (s.setSt b).ir = s.ir := rfl
@[simp] theorem State.setSt_redraw (b : Byte) : (s.setSt b).redraw = s.redraw := rfl
@[simp] theorem State.setSt_halt (b : Byte) : (s.setSt b).halt = s.halt := rfl
@[simp] theorem State.setSt_fcause (b : Byte) : (s.setSt b).fcause = s.fcause := rfl
@[simp] theorem State.setSt_mem (b : Byte) : (s.setSt b).mem = s.mem := rfl
@[simp] theorem State.setSt_status (b : Byte) : (s.setSt b).status = s.status := rfl
@[simp] theorem State.setSt_keyIn (b : Byte) : (s.setSt b).keyIn = s.keyIn := rfl
@[simp] theorem State.setSt_rndIn (b : Byte) : (s.setSt b).rndIn = s.rndIn := rfl
@[simp] theorem State.setSt_draws (b : Byte) : (s.setSt b).draws = s.draws := rfl
@[simp] theorem State.setSt_wasReset (b : Byte) : (s.setSt b).wasReset = s.wasReset := rfl
@[simp] theorem State.setSt_getV (b : Byte) (q : Reg) : (s.setSt b).getV q = s.getV q := rfl
@[simp] theorem State.setSt_getStack (b : Byte) (k : Fin 16) : (s.setSt b).getStack k = s.getStack k := rfl

/-! ### `setIr` -/

@[simp] theorem State.setIr_v (w : Word) : (s.setIr w).v = s.v := rfl
@[simp] theorem State.setIr_i (w : Word) : (s.setIr w).i = s.i := rfl
@[simp] theorem State.setIr_pc (w : Word) : (s.setIr w).pc = s.pc := rfl
@[simp] theorem State.setIr_stack (w : Word) : (s.setIr w).stack = s.stack := rfl
@[simp] theorem State.setIr_sp (w : Word) : (s.setIr w).sp = s.sp := rfl
@[simp] theorem State.setIr_fb (w : Word) : (s.setIr w).fb = s.fb := rfl
@[simp] theorem State.setIr_dt (w : Word) : (s.setIr w).dt = s.dt := rfl
@[simp] theorem State.setIr_st (w : Word) : (s.setIr w).st = s.st := rfl
@[simp] theorem State.setIr_key (w : Word) : (s.setIr w).key = s.key := rfl
@[simp] theorem State.setIr_ir (w : Word) : (s.setIr w).ir = w := rfl
@[simp] theorem State.setIr_redraw (w : Word) : (s.setIr w).redraw = s.redraw := rfl
@[simp] theorem State.setIr_halt (w : Word) : (s.setIr w).halt = s.halt := rfl
@[simp] theorem State.setIr_fcause (w : Word) : (s.setIr w).fcause = s.fcause := rfl
@[simp] theorem State.setIr_mem (w : Word) : (s.setIr w).mem = s.mem := rfl
@[simp] theorem State.setIr_status (w : Word) : (s.setIr w).status = s.status := rfl
@[simp] theorem State.setIr_keyIn (w : Word) : (s.setIr w).keyIn = s.keyIn := rfl
@[simp] theorem State.setIr_rndIn (w : Word) : (s.setIr w).rndIn = s.rndIn := rfl
@[simp] theorem State.setIr_draws (w : Word) : (s.setIr w).draws = s.draws := rfl
@[simp] theorem State.setIr_wasReset (w : Word) : (s.setIr w).wasReset = s.wasReset := rfl
@[simp] theorem State.setIr_getV (w : Word) (q : Reg) : (s.setIr w).getV q = s.getV q := rfl
@[simp] theorem State.setIr_getStack (w : Word) (k : Fin 16) : (s.setIr w).getStack k = s.getStack k := rfl

/-! ### `setMem` -/

@[simp] theorem State.setMem_v (m : Memory) : (s.setMem m).v = s.v := rfl
@[simp] theorem State.setMem_i (m : Memory) : (s.setMem m).i = s.i := rfl
@[simp] theorem State.setMem_pc (m : Memory) : (s.setMem m).pc = s.pc := rfl
@[simp] theorem State.setMem_stack (m : Memory) : (s.setMem m).stack = s.stack := rfl
@[simp] theorem State.setMem_sp (m : Memory) : (s.setMem m).sp = s.sp := rfl
@[simp] theorem State.setMem_fb (m : Memory) : (s.setMem m).fb = s.fb := rfl
@[simp] theorem State.setMem_dt (m : Memory) : (s.setMem m).dt = s.dt := rfl
@[simp] theorem State.setMem_st (m : Memory) : (s.setMem m).st = s.st := rfl
@[simp] theorem State.setMem_key (m : Memory) : (s.setMem m).key = s.key := rfl
@[simp] theorem State.setMem_ir (m : Memory) : (s.setMem m).ir = s.ir := rfl
@[simp] theorem State.setMem_redraw (m : Memory) : (s.setMem m).redraw = s.redraw := rfl
@[simp] theorem State.setMem_halt (m : Memory) : (s.setMem m).halt = s.halt := rfl
@[simp] theorem State.setMem_fcause (m : Memory) : (s.setMem m).fcause = s.fcause := rfl
@[simp] theorem State.setMem_mem (m : Memory) : (s.setMem m).mem = m := rfl
@[simp] theorem State.setMem_status (m : Memory) : (s.setMem m).status = s.status := rfl
@[simp] theorem State.setMem_keyIn (m : Memory) : (s.setMem m).keyIn = s.keyIn := rfl
@[simp] theorem State.setMem_rndIn (m : Memory) : (s.setMem m).rndIn = s.rndIn := rfl
@[simp] theorem State.setMem_draws (m : Memory) : (s.setMem m).draws = s.draws := rfl
@[simp] theorem State.setMem_wasReset (m : Memory) : (s.setMem m).wasReset = s.wasReset := rfl
@[simp] theorem State.setMem_getV (m : Memory) (q : Reg) : (s.setMem m).getV q = s.getV q := rfl
@[simp] theorem State.setMem_getStack (m : Memory) (k : Fin 16) : (s.setMem m).getStack k = s.getStack k := rfl

/-! ### `setFb` -/

@[simp] theorem State.setFb_v (f : FrameBuffer) : (s.setFb f).v = s.v := rfl
@[simp] theorem State.setFb_i (f : FrameBuffer) : (s.setFb f).i = s.i := rfl
@[simp] theorem State.setFb_pc (f : FrameBuffer) : (s.setFb f).pc = s.pc := rfl
@[simp] theorem State.setFb_stack (f : FrameBuffer) : (s.setFb f).stack = s.stack := rfl
@[simp] theorem State.setFb_sp (f : FrameBuffer) : (s.setFb f).sp = s.sp := rfl
@[simp] theorem State.setFb_fb (f : FrameBuffer) : (s.setFb f).fb = f := rfl
@[simp] theorem State.setFb_dt (f : FrameBuffer) : (s.setFb f).dt = s.dt := rfl
@[simp] theorem State.setFb_st (f : FrameBuffer) : (s.setFb f).st = s.st := rfl
@[simp] theorem State.setFb_key (f : FrameBuffer) : (s.setFb f).key = s.key := rfl
@[simp] theorem State.setFb_ir (f : FrameBuffer) : (s.setFb f).ir = s.ir := rfl
@[simp] theorem State.setFb_redraw (f : FrameBuffer) : (s.setFb f).redraw = true := rfl
@[simp] theorem State.setFb_halt (f : FrameBuffer) : (s.setFb f).halt = s.halt := rfl
@[simp] theorem State.setFb_fcause (f : FrameBuffer) : (s.setFb f).fcause = s.fcause := rfl
@[simp] theorem State.setFb_mem (f : FrameBuffer) : (s.setFb f).mem = s.mem := rfl
@[simp] theorem State.setFb_status (f : FrameBuffer) : (s.setFb f).status = s.status := rfl
@[simp] theorem State.setFb_keyIn (f : FrameBuffer) : (s.setFb f).keyIn = s.keyIn := rfl
@[simp] theorem State.setFb_rndIn (f : FrameBuffer) : (s.setFb f).rndIn = s.rndIn := rfl
@[simp] theorem State.setFb_draws (f : FrameBuffer) : (s.setFb f).draws = s.draws := rfl
@[simp] theorem State.setFb_wasReset (f : FrameBuffer) : (s.setFb f).wasReset = s.wasReset := rfl
@[simp] theorem State.setFb_getV (f : FrameBuffer) (q : Reg) : (s.setFb f).getV q = s.getV q := rfl
@[simp] theorem State.setFb_getStack (f : FrameBuffer) (k : Fin 16) : (s.setFb f).getStack k = s.getStack k := rfl

/-! ### `finishAt` -/

@[simp] theorem State.finishAt_v (w : Word) : (s.finishAt w).v = s.v := rfl
@[simp] theorem State.finishAt_i (w : Word) : (s.finishAt w).i = s.i := rfl
@[simp] theorem State.finishAt_pc (w : Word) : (s.finishAt w).pc = w := rfl
@[simp] theorem State.finishAt_stack (w : Word) : (s.finishAt w).stack = s.stack := rfl
@[simp] theorem State.finishAt_sp (w : Word) : (s.finishAt w).sp = s.sp := rfl
@[simp] theorem State.finishAt_fb (w : Word) : (s.finishAt w).fb = s.fb := rfl
@[simp] theorem State.finishAt_dt (w : Word) : (s.finishAt w).dt = s.dt := rfl
@[simp] theorem State.finishAt_st (w : Word) : (s.finishAt w).st = s.st := rfl
@[simp] theorem State.finishAt_key (w : Word) : (s.finishAt w).key = s.key := rfl
@[simp] theorem State.finishAt_ir (w : Word) : (s.finishAt w).ir = s.ir := rfl
@[simp] theorem State.finishAt_redraw (w : Word) : (s.finishAt w).redraw = s.redraw := rfl
@[simp] theorem State.finishAt_halt (w : Word) : (s.finishAt w).halt = s.halt := rfl
@[simp] theorem State.finishAt_fcause (w : Word) : (s.finishAt w).fcause = s.fcause := rfl
@[simp] theorem State.finishAt_mem (w : Word) : (s.finishAt w).mem = s.mem := rfl
@[simp] theorem State.finishAt_status (w : Word) : (s.finishAt w).status = some .executed := rfl
@[simp] theorem State.finishAt_keyIn (w : Word) : (s.finishAt w).keyIn = s.keyIn := rfl
@[simp] theorem State.finishAt_rndIn (w : Word) : (s.finishAt w).rndIn = s.rndIn := rfl
@[simp] theorem State.finishAt_draws (w : Word) : (s.finishAt w).draws = s.draws := rfl
@[simp] theorem State.finishAt_wasReset (w : Word) : (s.finishAt w).wasReset = s.wasReset := rfl
@[simp] theorem State.finishAt_getV (w : Word) (q : Reg) : (s.finishAt w).getV q = s.getV q := rfl
@[simp] theorem State.finishAt_getStack (w : Word) (k : Fin 16) : (s.finishAt w).getStack k = s.getStack k := rfl

/-! ### `advance` -/

@[simp] theorem State.advance_v : (s.advance).v = s.v := rfl
@[simp] theorem State.advance_i : (s.advance).i = s.i := rfl
@[simp] theorem State.advance_pc : (s.advance).pc = s.pc + 2 := rfl
@[simp] theorem State.advance_stack : (s.advance).stack = s.stack := rfl
@[simp] theorem State.advance_sp : (s.advance).sp = s.sp := rfl
@[simp] theorem State.advance_fb : (s.advance).fb = s.fb := rfl
@[simp] theorem State.advance_dt : (s.advance).dt = s.dt := rfl
@[simp] theorem State.advance_st : (s.advance).st = s.st := rfl
@[simp] theorem State.advance_key : (s.advance).key = s.key := rfl
@[simp] theorem State.advance_ir : (s.advance).ir = s.ir := rfl
@[simp] theorem State.advance_redraw : (s.advance).redraw = s.redraw := rfl
@[simp] theorem State.advance_halt : (s.advance).halt = s.halt := rfl
@[simp] theorem State.advance_fcause : (s.advance).fcause = s.fcause := rfl
@[simp] theorem State.advance_mem : (s.advance).mem = s.mem := rfl
@[simp] theorem State.advance_status : (s.advance).status = some .executed := rfl
@[simp] theorem State.advance_keyIn : (s.advance).keyIn = s.keyIn := rfl
@[simp] theorem State.advance_rndIn : (s.advance).rndIn = s.rndIn := rfl
@[simp] theorem State.advance_draws : (s.advance).draws = s.draws := rfl
@[simp] theorem State.advance_wasReset : (s.advance).wasReset = s.wasReset := rfl
@[simp] theorem State.advance_getV (q : Reg) : (s.advance).getV q = s.getV q := rfl
@[simp] theorem State.advance_getStack (k : Fin 16) : (s.advance).getStack k = s.getStack k := rfl

/-! ### `skipIf` -/

@[simp] theorem State.skipIf_v (c : Bool) : (s.skipIf c).v = s.v := rfl
@[simp] theorem State.skipIf_i (c : Bool) : (s.skipIf c).i = s.i := rfl
@[simp] theorem State.skipIf_pc (c : Bool) : (s.skipIf c).pc = s.pc + if c then 4 else 2 := rfl
@[simp] theorem State.skipIf_stack (c : Bool) : (s.skipIf c).stack = s.stack := rfl
@[simp] theorem State.skipIf_sp (c : Bool) : (s.skipIf c).sp = s.sp := rfl
@[simp] theorem State.skipIf_fb (c : Bool) : (s.skipIf c).fb = s.fb := rfl
@[simp] theorem State.skipIf_dt (c : Bool) : (s.skipIf c).dt = s.dt := rfl
@[simp] theorem State.skipIf_st (c : Bool) : (s.skipIf c).st = s.st := rfl
@[simp] theorem State.skipIf_key (c : Bool) : (s.skipIf c).key = s.key := rfl
@[simp] theorem State.skipIf_ir (c : Bool) : (s.skipIf c).ir = s.ir := rfl
@[simp] theorem State.skipIf_redraw (c : Bool) : (s.skipIf c).redraw = s.redraw := rfl
@[simp] theorem State.skipIf_halt (c : Bool) : (s.skipIf c).halt = s.halt := rfl
@[simp] theorem State.skipIf_fcause (c : Bool) : (s.skipIf c).fcause = s.fcause := rfl
@[simp] theorem State.skipIf_mem (c : Bool) : (s.skipIf c).mem = s.mem := rfl
@[simp] theorem State.skipIf_status (c : Bool) : (s.skipIf c).status = some .executed := rfl
@[simp] theorem State.skipIf_keyIn (c : Bool) : (s.skipIf c).keyIn = s.keyIn := rfl
@[simp] theorem State.skipIf_rndIn (c : Bool) : (s.skipIf c).rndIn = s.rndIn := rfl
@[simp] theorem State.skipIf_draws (c : Bool) : (s.skipIf c).draws = s.draws := rfl
@[simp] theorem State.skipIf_wasReset (c : Bool) : (s.skipIf c).wasReset = s.wasReset := rfl
@[simp] theorem State.skipIf_getV (c : Bool) (q : Reg) : (s.skipIf c).getV q = s.getV q := rfl
@[simp] theorem State.skipIf_getStack (c : Bool) (k : Fin 16) : (s.skipIf c).getStack k = s.getStack k := rfl

/-! ### `wait` -/

@[simp] theorem State.wait_v : (s.wait).v = s.v := rfl
@[simp] theorem State.wait_i : (s.wait).i = s.i := rfl
@[simp] theorem State.wait_pc : (s.wait).pc = s.pc := rfl
@[simp] theorem State.wait_stack : (s.wait).stack = s.stack := rfl
@[simp] theorem State.wait_sp : (s.wait).sp = s.sp := rfl
@[simp] theorem State.wait_fb : (s.wait).fb = s.fb := rfl
@[simp] theorem State.wait_dt : (s.wait).dt = s.dt := rfl
@[simp] theorem State.wait_st : (s.wait).st = s.st := rfl
@[simp] theorem State.wait_key : (s.wait).key = s.key := rfl
@[simp] theorem State.wait_ir : (s.wait).ir = s.ir := rfl
@[simp] theorem State.wait_redraw : (s.wait).redraw = s.redraw := rfl
@[simp] theorem State.wait_halt : (s.wait).halt = s.halt := rfl
@[simp] theorem State.wait_fcause : (s.wait).fcause = s.fcause := rfl
@[simp] theorem State.wait_mem : (s.wait).mem = s.mem := rfl
@[simp] theorem State.wait_status : (s.wait).status = some .waiting := rfl
@[simp] theorem State.wait_keyIn : (s.wait).keyIn = s.keyIn := rfl
@[simp] theorem State.wait_rndIn : (s.wait).rndIn = s.rndIn := rfl
@[simp] theorem State.wait_draws : (s.wait).draws = s.draws := rfl
@[simp] theorem State.wait_wasReset : (s.wait).wasReset = s.wasReset := rfl
@[simp] theorem State.wait_getV (q : Reg) : (s.wait).getV q = s.getV q := rfl
@[simp] theorem State.wait_getStack (k : Fin 16) : (s.wait).getStack k = s.getStack k := rfl

/-! ### `raise` -/

@[simp] theorem State.raise_v (c : FaultCause) : (s.raise c).v = s.v := rfl
@[simp] theorem State.raise_i (c : FaultCause) : (s.raise c).i = s.i := rfl
@[simp] theorem State.raise_pc (c : FaultCause) : (s.raise c).pc = s.pc := rfl
@[simp] theorem State.raise_stack (c : FaultCause) : (s.raise c).stack = s.stack := rfl
@[simp] theorem State.raise_sp (c : FaultCause) : (s.raise c).sp = s.sp := rfl
@[simp] theorem State.raise_fb (c : FaultCause) : (s.raise c).fb = s.fb := rfl
@[simp] theorem State.raise_dt (c : FaultCause) : (s.raise c).dt = s.dt := rfl
@[simp] theorem State.raise_st (c : FaultCause) : (s.raise c).st = s.st := rfl
@[simp] theorem State.raise_key (c : FaultCause) : (s.raise c).key = s.key := rfl
@[simp] theorem State.raise_ir (c : FaultCause) : (s.raise c).ir = s.ir := rfl
@[simp] theorem State.raise_redraw (c : FaultCause) : (s.raise c).redraw = s.redraw := rfl
@[simp] theorem State.raise_halt (c : FaultCause) : (s.raise c).halt = true := rfl
@[simp] theorem State.raise_fcause (c : FaultCause) : (s.raise c).fcause = c.code := rfl
@[simp] theorem State.raise_mem (c : FaultCause) : (s.raise c).mem = s.mem := rfl
@[simp] theorem State.raise_status (c : FaultCause) : (s.raise c).status = some (.fault c.code) := rfl
@[simp] theorem State.raise_keyIn (c : FaultCause) : (s.raise c).keyIn = s.keyIn := rfl
@[simp] theorem State.raise_rndIn (c : FaultCause) : (s.raise c).rndIn = s.rndIn := rfl
@[simp] theorem State.raise_draws (c : FaultCause) : (s.raise c).draws = s.draws := rfl
@[simp] theorem State.raise_wasReset (c : FaultCause) : (s.raise c).wasReset = s.wasReset := rfl
@[simp] theorem State.raise_getV (c : FaultCause) (q : Reg) : (s.raise c).getV q = s.getV q := rfl
@[simp] theorem State.raise_getStack (c : FaultCause) (k : Fin 16) : (s.raise c).getStack k = s.getStack k := rfl

/-! ### `haltedStep` -/

@[simp] theorem State.haltedStep_v : (s.haltedStep).v = s.v := rfl
@[simp] theorem State.haltedStep_i : (s.haltedStep).i = s.i := rfl
@[simp] theorem State.haltedStep_pc : (s.haltedStep).pc = s.pc := rfl
@[simp] theorem State.haltedStep_stack : (s.haltedStep).stack = s.stack := rfl
@[simp] theorem State.haltedStep_sp : (s.haltedStep).sp = s.sp := rfl
@[simp] theorem State.haltedStep_fb : (s.haltedStep).fb = s.fb := rfl
@[simp] theorem State.haltedStep_dt : (s.haltedStep).dt = s.dt := rfl
@[simp] theorem State.haltedStep_st : (s.haltedStep).st = s.st := rfl
@[simp] theorem State.haltedStep_key : (s.haltedStep).key = s.key := rfl
@[simp] theorem State.haltedStep_ir : (s.haltedStep).ir = s.ir := rfl
@[simp] theorem State.haltedStep_redraw : (s.haltedStep).redraw = s.redraw := rfl
@[simp] theorem State.haltedStep_halt : (s.haltedStep).halt = s.halt := rfl
@[simp] theorem State.haltedStep_fcause : (s.haltedStep).fcause = s.fcause := rfl
@[simp] theorem State.haltedStep_mem : (s.haltedStep).mem = s.mem := rfl
@[simp] theorem State.haltedStep_status : (s.haltedStep).status = some (.fault s.fcause) := rfl
@[simp] theorem State.haltedStep_keyIn : (s.haltedStep).keyIn = s.keyIn := rfl
@[simp] theorem State.haltedStep_rndIn : (s.haltedStep).rndIn = s.rndIn := rfl
@[simp] theorem State.haltedStep_draws : (s.haltedStep).draws = s.draws := rfl
@[simp] theorem State.haltedStep_wasReset : (s.haltedStep).wasReset = s.wasReset := rfl
@[simp] theorem State.haltedStep_getV (q : Reg) : (s.haltedStep).getV q = s.getV q := rfl
@[simp] theorem State.haltedStep_getStack (k : Fin 16) : (s.haltedStep).getStack k = s.getStack k := rfl

/-! ### `takeRnd` -/

@[simp] theorem State.takeRnd_v : (s.takeRnd).v = s.v := by unfold State.takeRnd; split <;> rfl
@[simp] theorem State.takeRnd_i : (s.takeRnd).i = s.i := by unfold State.takeRnd; split <;> rfl
@[simp] theorem State.takeRnd_pc : (s.takeRnd).pc = s.pc := by unfold State.takeRnd; split <;> rfl
@[simp] theorem State.takeRnd_stack : (s.takeRnd).stack = s.stack := by unfold State.takeRnd; split <;> rfl
@[simp] theorem State.takeRnd_sp : (s.takeRnd).sp = s.sp := by unfold State.takeRnd; split <;> rfl
@[simp] theorem State.takeRnd_fb : (s.takeRnd).fb = s.fb := by unfold State.takeRnd; split <;> rfl
@[simp] theorem State.takeRnd_dt : (s.takeRnd).dt = s.dt := by unfold State.takeRnd; split <;> rfl
@[simp] theorem State.takeRnd_st : (s.takeRnd).st = s.st := by unfold State.takeRnd; split <;> rfl
@[simp] theorem State.takeRnd_key : (s.takeRnd).key = s.key := by unfold State.takeRnd; split <;> rfl
@[simp] theorem State.takeRnd_ir : (s.takeRnd).ir = s.ir := by unfold State.takeRnd; split <;> rfl
@[simp] theorem State.takeRnd_redraw : (s.takeRnd).redraw = s.redraw := by unfold State.takeRnd; split <;> rfl
@[simp] theorem State.takeRnd_halt : (s.takeRnd).halt = s.halt := by unfold State.takeRnd; split <;> rfl
@[simp] theorem State.takeRnd_fcause : (s.takeRnd).fcause = s.fcause := by unfold State.takeRnd; split <;> rfl
@[simp] theorem State.takeRnd_mem : (s.takeRnd).mem = s.mem := by unfold State.takeRnd; split <;> rfl
@[simp] theorem State.takeRnd_status : (s.takeRnd).status = s.status := by unfold State.takeRnd; split <;> rfl
@[simp] theorem State.takeRnd_keyIn : (s.takeRnd).keyIn = s.keyIn := by unfold State.takeRnd; split <;> rfl
@[simp] theorem State.takeRnd_wasReset : (s.takeRnd).wasReset = s.wasReset := by unfold State.takeRnd; split <;> rfl
@[simp] theorem State.takeRnd_getV (q : Reg) : (s.takeRnd).getV q = s.getV q := by unfold State.takeRnd; split <;> rfl
@[simp] theorem State.takeRnd_getStack (k : Fin 16) : (s.takeRnd).getStack k = s.getStack k := by unfold State.takeRnd; split <;> rfl

/-! ### `sampleKeys` -/

@[simp] theorem State.sampleKeys_v : (s.sampleKeys).v = s.v := by unfold State.sampleKeys; split <;> rfl
@[simp] theorem State.sampleKeys_i : (s.sampleKeys).i = s.i := by unfold State.sampleKeys; split <;> rfl
@[simp] theorem State.sampleKeys_pc : (s.sampleKeys).pc = s.pc := by unfold State.sampleKeys; split <;> rfl
@[simp] theorem State.sampleKeys_stack : (s.sampleKeys).stack = s.stack := by unfold State.sampleKeys; split <;> rfl
@[simp] theorem State.sampleKeys_sp : (s.sampleKeys).sp = s.sp := by unfold State.sampleKeys; split <;> rfl
@[simp] theorem State.sampleKeys_fb : (s.sampleKeys).fb = s.fb := by unfold State.sampleKeys; split <;> rfl
@[simp] theorem State.sampleKeys_dt : (s.sampleKeys).dt = s.dt := by unfold State.sampleKeys; split <;> rfl
@[simp] theorem State.sampleKeys_st : (s.sampleKeys).st = s.st := by unfold State.sampleKeys; split <;> rfl
@[simp] theorem State.sampleKeys_ir : (s.sampleKeys).ir = s.ir := by unfold State.sampleKeys; split <;> rfl
@[simp] theorem State.sampleKeys_redraw : (s.sampleKeys).redraw = s.redraw := by unfold State.sampleKeys; split <;> rfl
@[simp] theorem State.sampleKeys_halt : (s.sampleKeys).halt = s.halt := by unfold State.sampleKeys; split <;> rfl
@[simp] theorem State.sampleKeys_fcause : (s.sampleKeys).fcause = s.fcause := by unfold State.sampleKeys; split <;> rfl
@[simp] theorem State.sampleKeys_mem : (s.sampleKeys).mem = s.mem := by unfold State.sampleKeys; split <;> rfl
@[simp] theorem State.sampleKeys_status : (s.sampleKeys).status = s.status := by unfold State.sampleKeys; split <;> rfl
@[simp] theorem State.sampleKeys_rndIn : (s.sampleKeys).rndIn = s.rndIn := by unfold State.sampleKeys; split <;> rfl
@[simp] theorem State.sampleKeys_draws : (s.sampleKeys).draws = s.draws := by unfold State.sampleKeys; split <;> rfl
@[simp] theorem State.sampleKeys_wasReset : (s.sampleKeys).wasReset = s.wasReset := by unfold State.sampleKeys; split <;> rfl
@[simp] theorem State.sampleKeys_getV (q : Reg) : (s.sampleKeys).getV q = s.getV q := by unfold State.sampleKeys; split <;> rfl
@[simp] theorem State.sampleKeys_getStack (k : Fin 16) : (s.sampleKeys).getStack k = s.getStack k := by unfold State.sampleKeys; split <;> rfl

/-! ### `tick` -/

@[simp] theorem State.tick_v : (s.tick).v = s.v := by unfold State.tick; split <;> rfl
@[simp] theorem State.tick_i : (s.tick).i = s.i := by unfold State.tick; split <;> rfl
@[simp] theorem State.tick_pc : (s.tick).pc = s.pc := by unfold State.tick; split <;> rfl
@[simp] theorem State.tick_stack : (s.tick).stack = s.stack := by unfold State.tick; split <;> rfl
@[simp] theorem State.tick_sp : (s.tick).sp = s.sp := by unfold State.tick; split <;> rfl
@[simp] theorem State.tick_fb : (s.tick).fb = s.fb := by unfold State.tick; split <;> rfl
@[simp] theorem State.tick_key : (s.tick).key = s.key := by unfold State.tick; split <;> rfl
@[simp] theorem State.tick_ir : (s.tick).ir = s.ir := by unfold State.tick; split <;> rfl
@[simp] theorem State.tick_redraw : (s.tick).redraw = s.redraw := by unfold State.tick; split <;> rfl
@[simp] theorem State.tick_halt : (s.tick).halt = s.halt := by unfold State.tick; split <;> rfl
@[simp] theorem State.tick_fcause : (s.tick).fcause = s.fcause := by unfold State.tick; split <;> rfl
@[simp] theorem State.tick_mem : (s.tick).mem = s.mem := by unfold State.tick; split <;> rfl
@[simp] theorem State.tick_status : (s.tick).status = s.status := by unfold State.tick; split <;> rfl
@[simp] theorem State.tick_keyIn : (s.tick).keyIn = s.keyIn := by unfold State.tick; split <;> rfl
@[simp] theorem State.tick_rndIn : (s.tick).rndIn = s.rndIn := by unfold State.tick; split <;> rfl
@[simp] theorem State.tick_draws : (s.tick).draws = s.draws := by unfold State.tick; split <;> rfl
@[simp] theorem State.tick_wasReset : (s.tick).wasReset = s.wasReset := by unfold State.tick; split <;> rfl
@[simp] theorem State.tick_getV (q : Reg) : (s.tick).getV q = s.getV q := by unfold State.tick; split <;> rfl
@[simp] theorem State.tick_getStack (k : Fin 16) : (s.tick).getStack k = s.getStack k := by unfold State.tick; split <;> rfl

theorem State.sampleKeys_key : s.sampleKeys.key = s.keyIn.headD s.key := by
  unfold State.sampleKeys; split <;> simp_all
theorem State.sampleKeys_keyIn : s.sampleKeys.keyIn = s.keyIn.tail := by
  unfold State.sampleKeys; split <;> simp_all
theorem State.tick_dt : s.tick.dt = if s.status = some .executed then countDown s.dt else s.dt := by
  unfold State.tick; split <;> rfl
theorem State.tick_st : s.tick.st = if s.status = some .executed then countDown s.st else s.st := by
  unfold State.tick; split <;> rfl

/-- A byte counts down by one and stops at 0 (R66). -/
theorem countDown_toNat (t : Byte) : (countDown t).toNat = t.toNat - 1 := by
  unfold countDown
  split
  · simp_all
  · rename_i h
    have : t.toNat ≠ 0 := fun e => h (BitVec.eq_of_toNat_eq (by simpa using e))
    rw [BitVec.toNat_sub]; simp; omega

/-! ### The stack (R16, R85, R87) -/

/-- The push where there is room: SP up by one, the entry at the old SP written, every other entry kept. -/
theorem State.push_eq_some {t : State} {w : Word} (h : s.push w = some t) (k : Fin 16) (hk : s.sp.val = k.val) :
    t = { s with stack := t.stack, sp := t.sp } ∧ t.sp.val = s.sp.val + 1 ∧
      ∀ j, t.getStack j = if j = k then w else s.getStack j := by
  unfold State.push at h
  split at h
  · cases h
    refine ⟨rfl, rfl, fun j => ?_⟩
    simp only [State.getStack, Vector.getElem_set, hk, Fin.ext_iff]
    by_cases e : k.val = j.val <;> simp [e, eq_comm]
  · cases h

/-- There is room exactly below the bound. -/
theorem State.push_eq_none (w : Word) : s.push w = none ↔ s.sp.val = 16 := by
  have := s.sp.isLt
  unfold State.push
  split <;> simp <;> omega

/-- The pop of a live entry: SP down by one, the entry there read and kept. -/
theorem State.pop_of_live (k : Fin 16) (hk : s.sp.val = k.val + 1) :
    ∃ t, s.pop = some (s.getStack k, t) ∧ t = { s with sp := t.sp } ∧ t.sp.val = k.val := by
  have h : 0 < s.sp.val := by omega
  refine ⟨{ s with sp := ⟨s.sp.val - 1, by omega⟩ }, ?_, rfl, by simp [hk]⟩
  unfold State.pop
  simp [State.getStack, hk]

/-- There is no live entry exactly at depth 0. -/
theorem State.pop_eq_none : s.pop = none ↔ s.sp.val = 0 := by
  unfold State.pop
  split <;> simp <;> omega

end Sys2Proof.Machine
end

