-- ==== Sys2Proof/Laws/Cycle.lean ====
section
/-! SUPPORT. What a step can do, said once (40_cycle.md R69); later proofs cite these instead of unfolding the cycle. -/

namespace Sys2Proof.Machine

/-- The state a step hands to the decoder: KEY sampled, IR fetched. -/
def State.fetched (s : State) : State := s.sampleKeys.setIr s.sampleKeys.fetchWord

/-- The fetch reads the two bytes at PC; sampling the keypad does not move it. -/
theorem State.fetched_ir (s : State) : s.fetched.ir = s.mem.readWord s.pc.toNat := by
  simp [State.fetched, State.fetchWord]

/-- Before the first reset a step has no meaning (R132). -/
theorem step_before_reset {s : State} (h : s.wasReset = false) : step s = .refused .beforeReset := by
  simp [step, cycle, h]

/-- The step of a halted engine. -/
theorem step_halted {s : State} (hr : s.wasReset = true) (h : s.halt = true) : step s = .next s.haltedStep := by
  simp [step, cycle, phases, hr, h]

/-- The step of a running engine whose PC is out of range. -/
theorem step_fetch_fault {s : State} (hr : s.wasReset = true) (h : s.halt = false) (hp : 0xFFE < s.pc.toNat) :
    step s = .next (s.sampleKeys.raise .fetchOutOfRange) := by
  have : s.sampleKeys.canFetch = false := by simp [State.canFetch]; omega
  simp [step, cycle, phases, hr, h, this]

/-- The step of a running engine that fetches. -/
theorem step_fetched {s : State} (hr : s.wasReset = true) (h : s.halt = false) (hp : s.pc.toNat ≤ 0xFFE) :
    step s = decodeExecute s.fetched := by
  have : s.sampleKeys.canFetch = true := by simp [State.canFetch]; omega
  simp [step, cycle, phases, hr, h, this, State.fetched]

/-- A word without a meaning. -/
theorem decodeExecute_unknown {s : State} {e : DecodeError} (h : decode s.ir = .error e) :
    decodeExecute s = .next (s.raise .unknownOpcode) := by
  simp [decodeExecute, h]

/-- A word with a meaning whose execute phase answers a next state. -/
theorem decodeExecute_next {s t : State} {i : Instr} (h : decode s.ir = .ok i) (ht : exec i s = .next t) :
    decodeExecute s = .next t.tick := by
  simp [decodeExecute, h, ht]

end Sys2Proof.Machine
end

