-- ==== Sys2Proof/Laws/Encoding.lean ====
section
/-! SUPPORT. The packers of the encoder as numbers, the fields read back from them, and the fixed digits a mask keeps. -/

namespace Sys2Proof

theorem append_toNat {m n : Nat} (a : BitVec m) (b : BitVec n) : (a ++ b).toNat = a.toNat * 2 ^ n + b.toNat := by
  rw [BitVec.toNat_append, ← Nat.shiftLeft_add_eq_or_of_lt b.isLt, Nat.shiftLeft_eq]

theorem regBits_toNat (x : Reg) : (regBits x).toNat = x.val := rfl

/-! ### Packers as numbers -/

theorem packNnn_toNat (op : BitVec 4) (nnn : Address) : (packNnn op nnn).toNat = op.toNat * 4096 + nnn.toNat :=
  append_toNat op nnn

theorem packXkk_toNat (op : BitVec 4) (x : Reg) (kk : Byte) :
    (packXkk op x kk).toNat = op.toNat * 4096 + x.val * 256 + kk.toNat := by
  have h : (packXkk op x kk).toNat = _ := append_toNat (op ++ regBits x) kk
  rw [h, append_toNat, regBits_toNat]; ring

theorem packXy_toNat (op : BitVec 4) (x y : Reg) (d : BitVec 4) :
    (packXy op x y d).toNat = op.toNat * 4096 + x.val * 256 + y.val * 16 + d.toNat := by
  have h : (packXy op x y d).toNat = _ := append_toNat (op ++ regBits x ++ regBits y) d
  rw [h, append_toNat, append_toNat, regBits_toNat, regBits_toNat]; ring

theorem packXyn_eq (op : BitVec 4) (x y : Reg) (n : Fin 16) : packXyn op x y n = packXy op x y (regBits n) := rfl

theorem packX_eq (op : BitVec 4) (x : Reg) (low : BitVec 8) : packX op x low = packXkk op x low := rfl

theorem bytes_toNat (hi lo : Byte) : (wordOfBytes hi lo).toNat = hi.toNat * 256 + lo.toNat :=
  append_toNat hi lo

/-! ### Fields as numbers -/

theorem opField_toNat (w : Word) : (opField w).toNat = w.toNat / 4096 := by
  simp [opField, BitVec.extractLsb'_toNat, Nat.shiftRight_eq_div_pow]; omega
theorem xField_val (w : Word) : (xField w).val = w.toNat / 256 % 16 := by
  simp [xField, Nat.shiftRight_eq_div_pow]
theorem yField_val (w : Word) : (yField w).val = w.toNat / 16 % 16 := by
  simp [yField, Nat.shiftRight_eq_div_pow]
theorem nField_val (w : Word) : (nField w).val = w.toNat % 16 := by
  simp [nField]
theorem minorField_toNat (w : Word) : (minorField w).toNat = w.toNat % 16 := by
  simp [minorField, BitVec.extractLsb'_toNat]
theorem kkField_toNat (w : Word) : (kkField w).toNat = w.toNat % 256 := by
  simp [kkField, BitVec.extractLsb'_toNat]
theorem nnnField_toNat (w : Word) : (nnnField w).toNat = w.toNat % 4096 := by
  simp [nnnField, BitVec.extractLsb'_toNat]

/-! ### Fields read back from the packers -/

@[simp] theorem opField_packNnn (op : BitVec 4) (nnn : Address) : opField (packNnn op nnn) = op :=
  BitVec.eq_of_toNat_eq (by rw [opField_toNat, packNnn_toNat]; omega)
@[simp] theorem nnnField_packNnn (op : BitVec 4) (nnn : Address) : nnnField (packNnn op nnn) = nnn :=
  BitVec.eq_of_toNat_eq (by rw [nnnField_toNat, packNnn_toNat]; omega)
@[simp] theorem opField_packXkk (op : BitVec 4) (x : Reg) (kk : Byte) : opField (packXkk op x kk) = op :=
  BitVec.eq_of_toNat_eq (by rw [opField_toNat, packXkk_toNat]; omega)
@[simp] theorem xField_packXkk (op : BitVec 4) (x : Reg) (kk : Byte) : xField (packXkk op x kk) = x :=
  Fin.ext (by rw [xField_val, packXkk_toNat]; omega)
@[simp] theorem kkField_packXkk (op : BitVec 4) (x : Reg) (kk : Byte) : kkField (packXkk op x kk) = kk :=
  BitVec.eq_of_toNat_eq (by rw [kkField_toNat, packXkk_toNat]; omega)
@[simp] theorem opField_packX (op : BitVec 4) (x : Reg) (kk : Byte) : opField (packX op x kk) = op := opField_packXkk op x kk
@[simp] theorem xField_packX (op : BitVec 4) (x : Reg) (kk : Byte) : xField (packX op x kk) = x := xField_packXkk op x kk
@[simp] theorem kkField_packX (op : BitVec 4) (x : Reg) (kk : Byte) : kkField (packX op x kk) = kk := kkField_packXkk op x kk
@[simp] theorem opField_packXy (op : BitVec 4) (x y : Reg) (d : BitVec 4) : opField (packXy op x y d) = op :=
  BitVec.eq_of_toNat_eq (by rw [opField_toNat, packXy_toNat]; omega)
@[simp] theorem xField_packXy (op : BitVec 4) (x y : Reg) (d : BitVec 4) : xField (packXy op x y d) = x :=
  Fin.ext (by rw [xField_val, packXy_toNat]; omega)
@[simp] theorem yField_packXy (op : BitVec 4) (x y : Reg) (d : BitVec 4) : yField (packXy op x y d) = y :=
  Fin.ext (by rw [yField_val, packXy_toNat]; omega)
@[simp] theorem minorField_packXy (op : BitVec 4) (x y : Reg) (d : BitVec 4) : minorField (packXy op x y d) = d :=
  BitVec.eq_of_toNat_eq (by rw [minorField_toNat, packXy_toNat]; omega)
@[simp] theorem opField_packXyn (op : BitVec 4) (x y : Reg) (n : Fin 16) : opField (packXyn op x y n) = op := opField_packXy op x y _
@[simp] theorem xField_packXyn (op : BitVec 4) (x y : Reg) (n : Fin 16) : xField (packXyn op x y n) = x := xField_packXy op x y _
@[simp] theorem yField_packXyn (op : BitVec 4) (x y : Reg) (n : Fin 16) : yField (packXyn op x y n) = y := yField_packXy op x y _
@[simp] theorem nField_packXyn (op : BitVec 4) (x y : Reg) (n : Fin 16) : nField (packXyn op x y n) = n :=
  Fin.ext (by rw [nField_val, packXyn_eq, packXy_toNat, regBits_toNat]; omega)

/-! ### What the masks of the opcode map keep (R50) -/

theorem packNnn_mask (op : BitVec 4) (nnn : Address) : packNnn op nnn &&& 0xF000#16 = packNnn op 0 := by
  apply BitVec.eq_of_getLsbD_eq
  intro i hi
  have h : ∀ n, (packNnn op n).getLsbD i = if i < 12 then n.getLsbD i else op.getLsbD (i - 12) := fun n =>
    BitVec.getLsbD_append
  simp only [BitVec.getLsbD_and, h]
  interval_cases i <;> simp

theorem packXkk_mask (op : BitVec 4) (x : Reg) (kk : Byte) : packXkk op x kk &&& 0xF000#16 = packXkk op 0 0 := by
  apply BitVec.eq_of_getLsbD_eq
  intro i hi
  have h : ∀ x kk, (packXkk op x kk).getLsbD i = if i < 8 then kk.getLsbD i
      else if i - 8 < 4 then (regBits x).getLsbD (i - 8) else op.getLsbD (i - 8 - 4) := by
    intro x kk
    show (op ++ regBits x ++ kk).getLsbD i = _
    rw [BitVec.getLsbD_append, BitVec.getLsbD_append]
  simp only [BitVec.getLsbD_and, h]
  interval_cases i <;> simp <;> rfl

theorem packX_mask (op : BitVec 4) (x : Reg) (low : BitVec 8) : packX op x low &&& 0xF0FF#16 = packX op 0 low := by
  apply BitVec.eq_of_getLsbD_eq
  intro i hi
  have h : ∀ x, (packX op x low).getLsbD i = if i < 8 then low.getLsbD i
      else if i - 8 < 4 then (regBits x).getLsbD (i - 8) else op.getLsbD (i - 8 - 4) := by
    intro x
    show (op ++ regBits x ++ low).getLsbD i = _
    rw [BitVec.getLsbD_append, BitVec.getLsbD_append]
  simp only [BitVec.getLsbD_and, h]
  interval_cases i <;> simp <;> rfl

theorem packXy_mask (op : BitVec 4) (x y : Reg) (d : BitVec 4) : packXy op x y d &&& 0xF00F#16 = packXy op 0 0 d := by
  apply BitVec.eq_of_getLsbD_eq
  intro i hi
  have h : ∀ x y, (packXy op x y d).getLsbD i = if i < 4 then d.getLsbD i
      else if i - 4 < 4 then (regBits y).getLsbD (i - 4)
      else if i - 4 - 4 < 4 then (regBits x).getLsbD (i - 4 - 4) else op.getLsbD (i - 4 - 4 - 4) := by
    intro x y
    show (op ++ regBits x ++ regBits y ++ d).getLsbD i = _
    rw [BitVec.getLsbD_append, BitVec.getLsbD_append, BitVec.getLsbD_append]
  simp only [BitVec.getLsbD_and, h]
  interval_cases i <;> simp <;> rfl

theorem packXyn_mask (op : BitVec 4) (x y : Reg) (n : Fin 16) : packXyn op x y n &&& 0xF000#16 = packXkk op 0 0 := by
  have h : packXyn op x y n = packXkk op x (regBits y ++ regBits n) := by
    apply BitVec.eq_of_toNat_eq
    rw [packXyn_eq, packXy_toNat, packXkk_toNat, append_toNat, regBits_toNat, regBits_toNat]; omega
  rw [h, packXkk_mask]

end Sys2Proof
end

