-- ==== Sys2Proof/Laws/Operands.lean ====
section
/-! SUPPORT. What the operand forms and the flag computations answer: the range check, the register block, the held keys and
the free pick among them, the flag bytes. -/

namespace Sys2Proof.Machine

/-! ### Flags (R12) -/

theorem flagByte_toNat (c : Bool) : (flagByte c).toNat = if c then 1 else 0 := by cases c <;> rfl

theorem carryFlag_toNat (a b : Byte) : (carryFlag a b).toNat = if a.toNat + b.toNat > 255 then 1 else 0 := by
  simp [carryFlag, flagByte_toNat]

theorem greaterFlag_toNat (a b : Byte) : (greaterFlag a b).toNat = if a.toNat > b.toNat then 1 else 0 := by
  simp [greaterFlag, flagByte_toNat]

theorem indexFlag_toNat (i : Word) (a : Byte) : (indexFlag i a).toNat = if i.toNat + a.toNat > 0xFFF then 1 else 0 := by
  simp [indexFlag, flagByte_toNat]

theorem shiftRightFlag_toNat : ∀ a : Byte, (shiftRightFlag a).toNat = a.toNat % 2 := by decide

theorem shiftLeftFlag_toNat : ∀ a : Byte, (shiftLeftFlag a).toNat = a.toNat / 128 := by decide

/-! ### The range check (R32) and the register block (R98, R99) -/

theorem State.dataInRange_iff (s : State) (n : Nat) :
    s.dataInRange n = true ↔ (n > 0 → s.i.toNat + n - 1 ≤ 0xFFF) := by
  rw [State.dataInRange, decide_eq_true_iff, State.dataAddress]; omega

theorem mem_regsUpTo (x r : Reg) : r ∈ regsUpTo x ↔ r ≤ x := by
  simp only [regsUpTo, List.mem_map, List.mem_range, Fin.le_def]
  constructor
  · rintro ⟨a, h, rfl⟩; simp; omega
  · intro h; exact ⟨r.val, by omega, by simp⟩

theorem State.block_length (s : State) (x : Reg) : (s.block x).length = x.val + 1 := by
  simp [State.block, regsUpTo]

theorem State.block_getElem (s : State) (x r : Reg) (h : r.val < (s.block x).length) :
    (s.block x)[r.val] = s.getV r := by
  simp [State.block, regsUpTo]

/-- Loading a list of registers writes those registers from memory and nothing else. -/
theorem State.loadBlock_spec (s : State) (rs : List Reg) :
    s.loadBlock rs = { s with v := (s.loadBlock rs).v } ∧
      ∀ q, (s.loadBlock rs).getV q = if q ∈ rs then s.mem.read (s.dataAddress q.val) else s.getV q := by
  suffices h : ∀ t : State, ∀ u, u = rs.foldl (fun t r => t.setV r (s.mem.read (s.dataAddress r.val))) t →
      u = { t with v := u.v } ∧ ∀ q, u.getV q = if q ∈ rs then s.mem.read (s.dataAddress q.val) else t.getV q from
    h s _ rfl
  induction rs with
  | nil => rintro t u rfl; simp
  | cons r rs ih =>
    rintro t u hu
    obtain ⟨h1, h2⟩ := ih _ u hu
    refine ⟨h1, fun q => ?_⟩
    rw [h2, State.setV_getV]
    by_cases e : q ∈ rs <;> by_cases e' : q = r <;> simp [e, e']

/-! ### Keys (R106) -/

theorem mem_heldKeys (key : BitVec 16) (k : Nat) : k ∈ heldKeys key ↔ k < 16 ∧ key.getLsbD k = true := by
  simp [heldKeys]

/-- Where a key is held, the pick is the number of a held key, whatever the free choice is. -/
theorem keyPick_held (key : BitVec 16) (h : key ≠ 0) :
    (keyPick key).toNat < 16 ∧ key.getLsbD (keyPick key).toNat = true := by
  suffices ∃ k ∈ heldKeys key, keyPick key = BitVec.ofNat 8 k by
    obtain ⟨k, hk, e⟩ := this
    obtain ⟨h1, h2⟩ := (mem_heldKeys _ _).1 hk
    have : k % 256 = k := by omega
    rw [e]; simp [this, h1, h2]
  unfold keyPick
  split
  · rename_i e
    refine absurd (BitVec.eq_of_getLsbD_eq fun i hi => ?_) h
    have := mem_heldKeys key i
    rw [e] at this
    simp at this
    simp [this hi]
  · rename_i k e
    exact ⟨k, by simp [e], rfl⟩
  · rename_i k ks e1 e
    refine ⟨_, ?_, rfl⟩
    rw [List.getD_eq_getElem _ _ (Nat.mod_lt _ (by simp)), e]
    exact List.getElem_mem _

end Sys2Proof.Machine
end

