-- ==== Sys2Proof/Laws/Exec.lean ====
section
/-! SUPPORT. What the execute phase of any instruction can do, said once: it raises the fault the table names, or it waits,
or it completes with the fields that no instruction touches as they were (40_cycle.md R65). -/

namespace Sys2Proof.Machine

/-- The fields that no completing instruction writes (R20, R22, R24, R132). -/
structure Completed (s t : State) : Prop where
  status : t.status = some .executed
  halt : t.halt = s.halt
  fcause : t.fcause = s.fcause
  key : t.key = s.key
  keyIn : t.keyIn = s.keyIn
  ir : t.ir = s.ir
  wasReset : t.wasReset = s.wasReset

/-- The three ends of the execute phase. -/
theorem exec_cases (i : Instr) (s : State) :
    (∃ c, executeFault i s = some c ∧ exec i s = .next (s.raise c)) ∨
    (executeFault i s = none ∧ s.key = 0 ∧ (∃ x, i = .ldVxK x) ∧ exec i s = .next s.wait) ∨
    (executeFault i s = none ∧ ∃ t, exec i s = .next t ∧ Completed s t) := by
  have inRange : ∀ n, s.dataInRange n = false ↔ (n > 0 ∧ s.i.toNat + n - 1 > 0xFFF) := by
    intro n; rw [← Bool.not_eq_true, s.dataInRange_iff]; omega
  cases i
  case ret =>
    by_cases h : s.sp.val = 0
    · exact .inl ⟨.stackUnderflow, by simp [executeFault, h], by simp only [exec, execRet, s.pop_eq_none.2 h]⟩
    · obtain ⟨t, h1, h2, -⟩ := s.pop_of_live ⟨s.sp.val - 1, by omega⟩ (by simp; omega)
      refine .inr (.inr ⟨by simp [executeFault, h], _, by simp only [exec, execRet, h1]; rfl, ?_⟩)
      rw [h2]; constructor <;> rfl
  case callNnn nnn =>
    by_cases h : s.sp.val = 16
    · exact .inl ⟨.stackOverflow, by simp [executeFault, h], by simp only [exec, execCallNnn, (s.push_eq_none _).2 h]⟩
    · rcases e : s.push s.pc with _ | t
      · exact absurd ((s.push_eq_none _).1 e) h
      · have h2 := (s.push_eq_some e ⟨s.sp.val, by omega⟩ rfl).1
        refine .inr (.inr ⟨by simp [executeFault, h], _, by simp only [exec, execCallNnn, e]; rfl, ?_⟩)
        rw [h2]; constructor <;> rfl
  case drwVxVyN x y n =>
    rcases e : s.dataInRange n.val with _ | _
    · exact .inl ⟨.dataOutOfRange, by simp only [executeFault, (inRange _).1 e]; simp, by simp [exec, execDrwVxVyN, e]⟩
    · have h := (s.dataInRange_iff _).1 e
      have h' : ¬ (n.val > 0 ∧ s.i.toNat + n.val - 1 > 0xFFF) := by omega
      exact .inr (.inr ⟨by simp only [executeFault, if_neg h'], _, by simp only [exec, execDrwVxVyN, e, if_true]; rfl,
        by constructor <;> rfl⟩)
  case bcdVx x =>
    rcases e : s.dataInRange 3 with _ | _
    · have h : s.i.toNat + 2 > 0xFFF := by have := (inRange 3).1 e; omega
      exact .inl ⟨.dataOutOfRange, by simp only [executeFault, if_pos h], by simp [exec, execBcdVx, e]⟩
    · have h : ¬ s.i.toNat + 2 > 0xFFF := by have := (s.dataInRange_iff 3).1 e; omega
      exact .inr (.inr ⟨by simp only [executeFault, if_neg h], _, by simp only [exec, execBcdVx, e, if_true]; rfl,
        by constructor <;> rfl⟩)
  case stmVx x =>
    rcases e : s.dataInRange (x.val + 1) with _ | _
    · have h : s.i.toNat + x.val > 0xFFF := by have := (inRange (x.val + 1)).1 e; omega
      exact .inl ⟨.dataOutOfRange, by simp only [executeFault, if_pos h], by simp [exec, execStmVx, e]⟩
    · have h : ¬ s.i.toNat + x.val > 0xFFF := by have := (s.dataInRange_iff (x.val + 1)).1 e; omega
      exact .inr (.inr ⟨by simp only [executeFault, if_neg h], _, by simp only [exec, execStmVx, e, if_true]; rfl,
        by constructor <;> rfl⟩)
  case ldmVx x =>
    rcases e : s.dataInRange (x.val + 1) with _ | _
    · have h : s.i.toNat + x.val > 0xFFF := by have := (inRange (x.val + 1)).1 e; omega
      exact .inl ⟨.dataOutOfRange, by simp only [executeFault, if_pos h], by simp [exec, execLdmVx, e]⟩
    · have h : ¬ s.i.toNat + x.val > 0xFFF := by have := (s.dataInRange_iff (x.val + 1)).1 e; omega
      refine .inr (.inr ⟨by simp only [executeFault, if_neg h], _, by simp only [exec, execLdmVx, e, if_true]; rfl, ?_⟩)
      rw [(s.loadBlock_spec (regsUpTo x)).1]; constructor <;> rfl
  case skpVx x =>
    by_cases h : (s.getV x).toNat > 15
    · exact .inl ⟨.keyIndexOutOfRange, by simp only [executeFault, if_pos h], by simp only [exec, execSkpVx, if_pos h]⟩
    · exact .inr (.inr ⟨by simp only [executeFault, if_neg h], _, by simp only [exec, execSkpVx, if_neg h]; rfl,
        by constructor <;> rfl⟩)
  case sknpVx x =>
    by_cases h : (s.getV x).toNat > 15
    · exact .inl ⟨.keyIndexOutOfRange, by simp only [executeFault, if_pos h], by simp only [exec, execSknpVx, if_pos h]⟩
    · exact .inr (.inr ⟨by simp only [executeFault, if_neg h], _, by simp only [exec, execSknpVx, if_neg h]; rfl,
        by constructor <;> rfl⟩)
  case ldVxK x =>
    by_cases h : s.key = 0
    · exact .inr (.inl ⟨rfl, h, ⟨x, rfl⟩, by simp only [exec, execLdVxK, if_pos h]⟩)
    · exact .inr (.inr ⟨rfl, _, by simp only [exec, execLdVxK, if_neg h]; rfl, by constructor <;> rfl⟩)
  case rndVxKk x kk =>
    refine .inr (.inr ⟨rfl, _, rfl, ?_⟩)
    constructor <;> simp
  all_goals exact .inr (.inr ⟨rfl, _, rfl, by constructor <;> rfl⟩)

end Sys2Proof.Machine
end

