-- ==== Sys2Proof/Laws/FrameBuffer.lean ====
section
/-! SUPPORT. The cells of the framebuffer after a clear and after a toggle, and the cell of a sprite pixel. -/

namespace Sys2Proof.Machine

/-- A cleared framebuffer holds 0 in every cell. -/
@[simp] theorem FrameBuffer.cell_clear (k : Nat) : FrameBuffer.clear.cell k = false := by
  simp [FrameBuffer.cell, FrameBuffer.clear]

/-- A toggle inverts its own cell and no other. -/
theorem FrameBuffer.cell_toggle (f : FrameBuffer) (k j : Nat) (hk : k < 2048) (hj : j < 2048) :
    (f.toggle k).cell j = if j = k then !f.cell j else f.cell j := by
  simp only [FrameBuffer.toggle, FrameBuffer.cell, dif_pos hk, dif_pos hj, Vector.getElem_set]
  by_cases e : k / 64 = j / 64
  · simp only [e, if_true, BitVec.getLsbD_xor, BitVec.getLsbD_twoPow]
    have h : (k % 64 = j % 64) ↔ j = k := by omega
    by_cases e' : j = k
    · subst e'; simp [Nat.mod_lt]
    · have : ¬ k % 64 = j % 64 := by omega
      simp [this, e']
  · have : ¬ j = k := by intro h; subst h; exact e rfl
    simp [e, this]

/-- A sprite pixel lands on a cell of the framebuffer. -/
theorem spriteCell_lt (x0 y0 r c : Nat) : spriteCell x0 y0 r c < 2048 := by
  simp only [spriteCell, Config.fbRows, Config.fbCols]; omega

end Sys2Proof.Machine
end

