-- ==== Sys2Proof/Laws/Memory.lean ====
section
/-! SUPPORT. What the memory operations of Machine/Ops.lean do: a read after a write, and the canonical form kept by every
operation. -/

namespace Sys2Proof.Machine

/-- The empty list is the memory of reset, in canonical form. -/
theorem Memory.wf_nil : Memory.wf [] := by simp [Memory.wf]

theorem Memory.wf_tail {c : Host.Cell} {m : Memory} (h : Memory.wf (c :: m)) : Memory.wf m :=
  ⟨(List.pairwise_cons.1 h.1).2, fun d hd => h.2 d (List.mem_cons_of_mem _ hd)⟩

theorem Memory.wf_head {c : Host.Cell} {m : Memory} (h : Memory.wf (c :: m)) :
    c.1 < 4096 ∧ c.2 ≠ Memory.unlisted c.1 ∧ ∀ d ∈ m, c.1 < d.1 :=
  ⟨(h.2 c (List.mem_cons_self ..)).1, (h.2 c (List.mem_cons_self ..)).2, (List.pairwise_cons.1 h.1).1⟩

/-- Below every listed address a memory reads as unlisted. -/
theorem Memory.read_of_lt {m : Memory} {a : Nat} (h : ∀ d ∈ m, a < d.1) : Memory.read m a = Memory.unlisted a := by
  induction m with
  | nil => rfl
  | cons c m ih =>
    have hc : c.1 ≠ a := by have := h c (List.mem_cons_self ..); omega
    simp only [Memory.read, if_neg hc]
    exact ih fun d hd => h d (List.mem_cons_of_mem _ hd)

/-- A read after a write (R39), in a canonical memory. -/
theorem Memory.read_write {m : Memory} (h : m.wf) (a : Nat) (w : Byte) (b : Nat) :
    (m.write a w).read b = if b = a then w else m.read b := by
  induction m with
  | nil =>
    simp only [Memory.write]
    by_cases e : b = a
    · subst e; by_cases u : w = Memory.unlisted b <;> simp [Memory.read, u]
    · have e' : ¬ a = b := fun h => e h.symm
      by_cases u : w = Memory.unlisted a <;> simp [Memory.read, u, e, e']
  | cons c m ih =>
    obtain ⟨k, u⟩ := c
    obtain ⟨-, -, hlt⟩ := Memory.wf_head h
    have ih := ih (Memory.wf_tail h)
    have unlistedAt : a < k → Memory.read ((k, u) :: m) a = Memory.unlisted a := fun hk =>
      Memory.read_of_lt fun d hd => by
        rcases List.mem_cons.1 hd with rfl | hd
        · exact hk
        · exact lt_trans hk (hlt d hd)
    simp only [Memory.write]
    rcases lt_trichotomy a k with hk | hk | hk
    · rw [if_pos hk]
      by_cases e : b = a
      · subst e; by_cases hu : w = Memory.unlisted b
        · rw [if_pos hu, if_pos rfl, unlistedAt hk, hu]
        · simp [Memory.read, hu]
      · have e' : ¬ a = b := fun h => e h.symm
        by_cases hu : w = Memory.unlisted a <;> simp [Memory.read, hu, e, e']
    · subst hk
      rw [if_neg (lt_irrefl a), if_pos rfl]
      by_cases e : b = a
      · subst e; by_cases hu : w = Memory.unlisted b
        · rw [if_pos hu, if_pos rfl, Memory.read_of_lt hlt, hu]
        · simp [Memory.read, hu]
      · have e' : ¬ a = b := fun h => e h.symm
        by_cases hu : w = Memory.unlisted a <;> simp [Memory.read, hu, e, e']
    · rw [if_neg (by omega), if_neg (by omega)]
      by_cases e : k = b
      · have e' : ¬ b = a := by omega
        simp [Memory.read, e, e']
      · simp [Memory.read, e, ih]

/-- Every address listed after a write was listed before, or is the one written. -/
theorem Memory.mem_write {m : Memory} {a : Nat} {w : Byte} {d : Host.Cell} (h : d ∈ m.write a w) :
    d ∈ m ∨ (d = (a, w) ∧ w ≠ Memory.unlisted a) := by
  induction m with
  | nil =>
    simp only [Memory.write] at h
    split at h <;> simp_all
  | cons c m ih =>
    simp only [Memory.write] at h
    split_ifs at h <;> simp_all
    · tauto
    · tauto
    · rcases h with h | h
      · tauto
      · rcases ih h with h | h <;> tauto

/-- A write to an address of the space keeps the canonical form. -/
theorem Memory.write_wf {m : Memory} (h : m.wf) {a : Nat} (ha : a < 4096) (w : Byte) : (m.write a w).wf := by
  refine ⟨?_, fun d hd => ?_⟩
  · induction m with
    | nil => simp only [Memory.write]; split <;> simp
    | cons c m ih =>
      obtain ⟨-, -, hlt⟩ := Memory.wf_head h
      have ih := ih (Memory.wf_tail h)
      simp only [Memory.write]
      split_ifs with h1 h2 h3 h4
      · exact h.1
      · refine List.pairwise_cons.2 ⟨fun d hd => ?_, h.1⟩
        rcases List.mem_cons.1 hd with rfl | hd
        · exact h1
        · exact lt_trans h1 (hlt d hd)
      · exact (Memory.wf_tail h).1
      · exact List.pairwise_cons.2 ⟨fun d hd => h3 ▸ hlt d hd, (Memory.wf_tail h).1⟩
      · refine List.pairwise_cons.2 ⟨fun d hd => ?_, ih⟩
        rcases Memory.mem_write hd with hd | ⟨rfl, -⟩
        · exact hlt d hd
        · show c.1 < a; omega
  · rcases Memory.mem_write hd with hd | ⟨rfl, hw⟩
    · exact h.2 d hd
    · exact ⟨ha, hw⟩

/-- Bytes stored inside the space keep the canonical form. -/
theorem Memory.writeBytes_wf (bs : List Byte) {m : Memory} (h : m.wf) {a : Nat} (ha : a + bs.length ≤ 4096) :
    (m.writeBytes a bs).wf := by
  induction bs generalizing m a with
  | nil => exact h
  | cons b bs ih =>
    simp only [List.length_cons] at ha
    exact ih (Memory.write_wf h (by omega) b) (by omega)

/-- What a block of stored bytes reads as: the bytes in ascending order (R34), and every other address as before. -/
theorem Memory.read_writeBytes (bs : List Byte) {m : Memory} (h : m.wf) {a : Nat} (ha : a + bs.length ≤ 4096) (b : Nat) :
    (m.writeBytes a bs).read b =
      if hb : a ≤ b ∧ b < a + bs.length then bs[b - a]'(by omega) else m.read b := by
  induction bs generalizing m a with
  | nil => rw [dif_neg (by simp)]; rfl
  | cons c bs ih =>
    simp only [List.length_cons] at ha
    simp only [Memory.writeBytes]
    rw [ih (Memory.write_wf h (by omega) c) (by omega), Memory.read_write h]
    simp only [List.length_cons]
    by_cases e : b = a
    · subst e; simp
    · by_cases e2 : a + 1 ≤ b ∧ b < a + 1 + bs.length
      · have e3 : a ≤ b ∧ b < a + (bs.length + 1) := by omega
        rw [dif_pos e2, dif_pos e3, List.getElem_cons, dif_neg (by omega)]
        congr 1
      · have e3 : ¬ (a ≤ b ∧ b < a + (bs.length + 1)) := by omega
        rw [dif_neg e2, dif_neg e3, if_neg e]

end Sys2Proof.Machine
end

