-- ==== Sys2Proof/Laws/PerInstr.lean ====
section
/-! SUPPORT. Per-instruction laws. WordFitsRow: the word an instruction is encoded as matches the mask and match value of
its own row of the opcode map (R50), whatever the operands. -/

namespace Sys2Proof.Laws.WordFitsRow

/-- The word of `i` is covered by the row of its mnemonic. -/
def Statement (i : Instr) : Prop :=
  ∀ r ∈ opcodeRows, r.mnemonic = i.mnemonic → r.covers (encode i) = true

/-- To check a statement it is enough to look at the one row of the mnemonic. -/
theorem of_row {i : Instr} (name : String) (mask value : Word) (hm : i.mnemonic = name)
    (hr : opcodeRows.filter (fun q => q.mnemonic = name) = [⟨name, mask, value⟩])
    (hc : encode i &&& mask = value) : Statement i := by
  intro q hq hqm
  have : q ∈ opcodeRows.filter (fun q => q.mnemonic = name) := by simp [hq, hqm, hm]
  rw [hr] at this
  simpa [List.mem_singleton.1 this, OpcodeRow.covers] using hc

theorem cls : Statement (.cls) :=
  of_row "CLS" 0xFFFF#16 0x00E0#16 rfl (by decide) (by decide)
theorem ret : Statement (.ret) :=
  of_row "RET" 0xFFFF#16 0x00EE#16 rfl (by decide) (by decide)
theorem jpNnn (nnn : Address) : Statement (.jpNnn nnn) :=
  of_row "JP_NNN" 0xF000#16 0x1000#16 rfl (by decide) (packNnn_mask ..)
theorem callNnn (nnn : Address) : Statement (.callNnn nnn) :=
  of_row "CALL_NNN" 0xF000#16 0x2000#16 rfl (by decide) (packNnn_mask ..)
theorem seVxKk (x : Reg) (kk : Byte) : Statement (.seVxKk x kk) :=
  of_row "SE_VX_KK" 0xF000#16 0x3000#16 rfl (by decide) (packXkk_mask ..)
theorem sneVxKk (x : Reg) (kk : Byte) : Statement (.sneVxKk x kk) :=
  of_row "SNE_VX_KK" 0xF000#16 0x4000#16 rfl (by decide) (packXkk_mask ..)
theorem seVxVy (x : Reg) (y : Reg) : Statement (.seVxVy x y) :=
  of_row "SE_VX_VY" 0xF00F#16 0x5000#16 rfl (by decide) (packXy_mask ..)
theorem ldVxKk (x : Reg) (kk : Byte) : Statement (.ldVxKk x kk) :=
  of_row "LD_VX_KK" 0xF000#16 0x6000#16 rfl (by decide) (packXkk_mask ..)
theorem addVxKk (x : Reg) (kk : Byte) : Statement (.addVxKk x kk) :=
  of_row "ADD_VX_KK" 0xF000#16 0x7000#16 rfl (by decide) (packXkk_mask ..)
theorem ldVxVy (x : Reg) (y : Reg) : Statement (.ldVxVy x y) :=
  of_row "LD_VX_VY" 0xF00F#16 0x8000#16 rfl (by decide) (packXy_mask ..)
theorem orVxVy (x : Reg) (y : Reg) : Statement (.orVxVy x y) :=
  of_row "OR" 0xF00F#16 0x8001#16 rfl (by decide) (packXy_mask ..)
theorem andVxVy (x : Reg) (y : Reg) : Statement (.andVxVy x y) :=
  of_row "AND" 0xF00F#16 0x8002#16 rfl (by decide) (packXy_mask ..)
theorem xorVxVy (x : Reg) (y : Reg) : Statement (.xorVxVy x y) :=
  of_row "XOR" 0xF00F#16 0x8003#16 rfl (by decide) (packXy_mask ..)
theorem addVxVy (x : Reg) (y : Reg) : Statement (.addVxVy x y) :=
  of_row "ADD_VX_VY" 0xF00F#16 0x8004#16 rfl (by decide) (packXy_mask ..)
theorem subVxVy (x : Reg) (y : Reg) : Statement (.subVxVy x y) :=
  of_row "SUB" 0xF00F#16 0x8005#16 rfl (by decide) (packXy_mask ..)
theorem shrVx (x : Reg) (y : Reg) : Statement (.shrVx x y) :=
  of_row "SHR" 0xF00F#16 0x8006#16 rfl (by decide) (packXy_mask ..)
theorem subnVxVy (x : Reg) (y : Reg) : Statement (.subnVxVy x y) :=
  of_row "SUBN" 0xF00F#16 0x8007#16 rfl (by decide) (packXy_mask ..)
theorem shlVx (x : Reg) (y : Reg) : Statement (.shlVx x y) :=
  of_row "SHL" 0xF00F#16 0x800E#16 rfl (by decide) (packXy_mask ..)
theorem sneVxVy (x : Reg) (y : Reg) : Statement (.sneVxVy x y) :=
  of_row "SNE_VX_VY" 0xF00F#16 0x9000#16 rfl (by decide) (packXy_mask ..)
theorem ldINnn (nnn : Address) : Statement (.ldINnn nnn) :=
  of_row "LD_I_NNN" 0xF000#16 0xA000#16 rfl (by decide) (packNnn_mask ..)
theorem jpV0Nnn (nnn : Address) : Statement (.jpV0Nnn nnn) :=
  of_row "JP_V0_NNN" 0xF000#16 0xB000#16 rfl (by decide) (packNnn_mask ..)
theorem rndVxKk (x : Reg) (kk : Byte) : Statement (.rndVxKk x kk) :=
  of_row "RND" 0xF000#16 0xC000#16 rfl (by decide) (packXkk_mask ..)
theorem drwVxVyN (x : Reg) (y : Reg) (n : Fin 16) : Statement (.drwVxVyN x y n) :=
  of_row "DRW" 0xF000#16 0xD000#16 rfl (by decide) (packXyn_mask ..)
theorem skpVx (x : Reg) : Statement (.skpVx x) :=
  of_row "SKP" 0xF0FF#16 0xE09E#16 rfl (by decide) (packX_mask ..)
theorem sknpVx (x : Reg) : Statement (.sknpVx x) :=
  of_row "SKNP" 0xF0FF#16 0xE0A1#16 rfl (by decide) (packX_mask ..)
theorem ldVxDt (x : Reg) : Statement (.ldVxDt x) :=
  of_row "LD_VX_DT" 0xF0FF#16 0xF007#16 rfl (by decide) (packX_mask ..)
theorem ldVxK (x : Reg) : Statement (.ldVxK x) :=
  of_row "LD_VX_K" 0xF0FF#16 0xF00A#16 rfl (by decide) (packX_mask ..)
theorem ldDtVx (x : Reg) : Statement (.ldDtVx x) :=
  of_row "LD_DT_VX" 0xF0FF#16 0xF015#16 rfl (by decide) (packX_mask ..)
theorem ldStVx (x : Reg) : Statement (.ldStVx x) :=
  of_row "LD_ST_VX" 0xF0FF#16 0xF018#16 rfl (by decide) (packX_mask ..)
theorem addIVx (x : Reg) : Statement (.addIVx x) :=
  of_row "ADD_I_VX" 0xF0FF#16 0xF01E#16 rfl (by decide) (packX_mask ..)
theorem ldFVx (x : Reg) : Statement (.ldFVx x) :=
  of_row "LD_F_VX" 0xF0FF#16 0xF029#16 rfl (by decide) (packX_mask ..)
theorem bcdVx (x : Reg) : Statement (.bcdVx x) :=
  of_row "BCD" 0xF0FF#16 0xF033#16 rfl (by decide) (packX_mask ..)
theorem stmVx (x : Reg) : Statement (.stmVx x) :=
  of_row "STM" 0xF0FF#16 0xF055#16 rfl (by decide) (packX_mask ..)
theorem ldmVx (x : Reg) : Statement (.ldmVx x) :=
  of_row "LDM" 0xF0FF#16 0xF065#16 rfl (by decide) (packX_mask ..)

end Sys2Proof.Laws.WordFitsRow
end

