-- ==== Sys2Proof/Laws/Step.lean ====
section
/-! SUPPORT. The inversion of a step: the four ways a step of a running engine can end, with the guard of each. Claims about
steps cite `step_cases` and never unfold the cycle. -/

namespace Sys2Proof.Machine

/-- The state a step hands to the decoder, field by field. -/
theorem State.fetched_eq (s : State) :
    s.fetched = { s with key := s.keyIn.headD s.key, keyIn := s.keyIn.tail, ir := s.mem.readWord s.pc.toNat } := by
  unfold State.fetched State.sampleKeys
  cases h : s.keyIn <;> simp [State.setIr, State.fetchWord, h]

/-- Sampling and fetching do not touch what the fault conditions of the execute phase look at. -/
theorem executeFault_fetched (i : Instr) (s : State) : executeFault i s.fetched = executeFault i s := by
  rw [s.fetched_eq]; cases i <;> rfl

/-- A step of a running engine faults in the fetch, faults on the fetched word, waits in Fx0A, or completes and ticks. -/
theorem step_cases (s : State) (h : s.running) :
    (s.pc.toNat > 0xFFE ∧ stepFault s = some .fetchOutOfRange ∧
      step s = .next (s.sampleKeys.raise .fetchOutOfRange)) ∨
    (s.pc.toNat ≤ 0xFFE ∧ ∃ c, stepFault s = some c ∧ step s = .next (s.fetched.raise c)) ∨
    (s.pc.toNat ≤ 0xFFE ∧ stepFault s = none ∧ s.fetched.key = 0 ∧
      (∃ x, decode (s.mem.readWord s.pc.toNat) = .ok (.ldVxK x)) ∧ step s = .next s.fetched.wait) ∨
    (s.pc.toNat ≤ 0xFFE ∧ stepFault s = none ∧ ∃ i t, decode (s.mem.readWord s.pc.toNat) = .ok i ∧
      exec i s.fetched = .next t ∧ Completed s.fetched t ∧ step s = .next t.tick) := by
  by_cases hp : s.pc.toNat > 0xFFE
  · exact .inl ⟨hp, by simp [stepFault, hp], step_fetch_fault h.1 h.2 hp⟩
  right
  have hp' : s.pc.toNat ≤ 0xFFE := by omega
  rw [step_fetched h.1 h.2 hp']
  rcases hd : decode (s.mem.readWord s.pc.toNat) with e | i
  · exact .inl ⟨hp', _, by simp [stepFault, hp, hd], decodeExecute_unknown (by rw [State.fetched_ir, hd])⟩
  have hd' : decode s.fetched.ir = .ok i := by rw [State.fetched_ir, hd]
  have hf : stepFault s = executeFault i s.fetched := by
    simp only [stepFault, if_neg hp, hd, executeFault_fetched]
  rcases exec_cases i s.fetched with ⟨c, h1, h2⟩ | ⟨h1, h2, ⟨x, rfl⟩, h4⟩ | ⟨h1, t, h2, h3⟩
  · exact .inl ⟨hp', c, by rw [hf, h1], by rw [decodeExecute_next hd' h2]; simp [State.tick]⟩
  · exact .inr (.inl ⟨hp', by rw [hf, h1], h2, ⟨x, rfl⟩, by rw [decodeExecute_next hd' h4]; simp [State.tick]⟩)
  · exact .inr (.inr ⟨hp', by rw [hf, h1], i, t, rfl, h2, h3, decodeExecute_next hd' h2⟩)

end Sys2Proof.Machine
end

