-- ==== Sys2Proof/Tests/Slice0.lean ====
section
/-! SUPPORT. Small tests. Expected results are taken by hand from the vectors of spec/95_test_vectors.md (their ids stand
in the comments) or from the rule named; then one witness for every statement of Obligations.lean that has hypotheses. -/

namespace Sys2Proof.Tests

open Sys2Proof Sys2Proof.Machine

/-! ## Helpers -/

/-- The state after reset with some registers set. -/
def start (rs : List (Reg × Byte)) : State := rs.foldl (fun s p => s.setV p.1 p.2) State.reset

/-- The next state of a step. -/
def next (s : State) : State :=
  match step s with
  | .next t => t
  | .fault _ => s
  | .refused _ => s

/-- One step on `s` with the word `w` placed at PC. -/
def after (w : Nat) (s : State) : State := next (s.withFetchWord 16 w)

/-- The framebuffer whose set cells are those listed. -/
def pixels (ks : List Nat) : FrameBuffer := ks.foldl FrameBuffer.toggle FrameBuffer.clear

/-! ## Decoding: a word of every constructor, written out from the patterns of R50 -/

/-- 00E0, 00EE, 1nnn, 2nnn, Annn, Bnnn (DV2, DV3, DV7, DV9, DV18, DV19). -/
theorem test_decode_address_forms :
    decode 0x00E0 = .ok .cls ∧ decode 0x00EE = .ok .ret ∧ decode 0x10E0 = .ok (.jpNnn 0x0E0) ∧
    decode 0x2FFF = .ok (.callNnn 0xFFF) ∧ decode 0xA2F0 = .ok (.ldINnn 0x2F0) ∧
    decode 0xBFFF = .ok (.jpV0Nnn 0xFFF) := by decide

/-- 3xkk, 4xkk, 6xkk, 7xkk, Cxkk (CV2, AV1, AV3, DV20). -/
theorem test_decode_immediate_forms :
    decode 0x3412 = .ok (.seVxKk 4 0x12) ∧ decode 0x4A12 = .ok (.sneVxKk 10 0x12) ∧
    decode 0x6A2F = .ok (.ldVxKk 10 0x2F) ∧ decode 0x7105 = .ok (.addVxKk 1 0x05) ∧
    decode 0xC30F = .ok (.rndVxKk 3 0x0F) := by decide

/-- 5xy0, 8xy0 to 8xy7, 8xyE, 9xy0, Dxyn (DV10, DV12, DV14, DV16, DV22). -/
theorem test_decode_register_forms :
    decode 0x5120 = .ok (.seVxVy 1 2) ∧ decode 0x8120 = .ok (.ldVxVy 1 2) ∧ decode 0x8121 = .ok (.orVxVy 1 2) ∧
    decode 0x8122 = .ok (.andVxVy 1 2) ∧ decode 0x8123 = .ok (.xorVxVy 1 2) ∧ decode 0x8FF4 = .ok (.addVxVy 15 15) ∧
    decode 0x8125 = .ok (.subVxVy 1 2) ∧ decode 0x8126 = .ok (.shrVx 1 2) ∧ decode 0x8127 = .ok (.subnVxVy 1 2) ∧
    decode 0x812E = .ok (.shlVx 1 2) ∧ decode 0x9120 = .ok (.sneVxVy 1 2) ∧
    decode 0xD12F = .ok (.drwVxVyN 1 2 15) := by decide

/-- Ex9E, ExA1 and the nine Fx forms (DV23, DV25, DV27, DV29). -/
theorem test_decode_single_register_forms :
    decode 0xE19E = .ok (.skpVx 1) ∧ decode 0xEFA1 = .ok (.sknpVx 15) ∧ decode 0xF007 = .ok (.ldVxDt 0) ∧
    decode 0xF90A = .ok (.ldVxK 9) ∧ decode 0xF115 = .ok (.ldDtVx 1) ∧ decode 0xF218 = .ok (.ldStVx 2) ∧
    decode 0xF31E = .ok (.addIVx 3) ∧ decode 0xF429 = .ok (.ldFVx 4) ∧ decode 0xF533 = .ok (.bcdVx 5) ∧
    decode 0xF655 = .ok (.stmVx 6) ∧ decode 0xF165 = .ok (.ldmVx 1) := by decide

/-- The unknown words of DV1 to DV30 and the line below them. -/
theorem test_decode_unknown :
    let ws : List Word := [0x0000, 0x00E1, 0x00FE, 0x0123, 0x5121, 0x8128, 0x812F, 0x9121, 0xE19F, 0xE000] ++
      [0xF000, 0xFFFF, 0xF166, 0xF1FF, 0xF01F, 0xF075, 0xF085, 0xF030]
    ws.map decode = ws.map fun w => .error (.unknownOpcode w) := by decide

/-- The decoder of the host's interface: the first byte of memory is the high byte of the word (R33). -/
theorem test_decodeTableWord : decodeTableWord 16 0x8127 = some (.subnVxVy 1 2) ∧ decodeTableWord 16 0x5121 = none := by
  decide

/-! ## What is ill formed is refused -/

/-- Major 0: only two words have a row. -/
theorem test_illFormed_0 : wordWellFormed 0x00E0 = true ∧ wordWellFormed 0x0000 = false := by decide
/-- Majors 5 and 9: the last digit is 0. -/
theorem test_illFormed_5_9 : wordWellFormed 0x5121 = false ∧ wordWellFormed 0x912F = false := by decide
/-- Major 8: 8 to D and F have no row. -/
theorem test_illFormed_8 :
    ([0x8128, 0x8129, 0x812A, 0x812B, 0x812C, 0x812D, 0x812F] : List Word).any wordWellFormed = false := by decide
/-- Major E: only 9E and A1. -/
theorem test_illFormed_E : wordWellFormed 0xE19F = false ∧ wordWellFormed 0xE1A0 = false := by decide
/-- Major F: only the nine listed low bytes. -/
theorem test_illFormed_F : wordWellFormed 0xF0FF = false ∧ wordWellFormed 0xF030 = false := by decide
/-- A program of 3585 bytes is refused, one of 3584 is not (LV3, LV4). -/
theorem test_illFormed_program : programWellFormed (List.replicate 3585 1) = false ∧
    programWellFormed (List.replicate 3584 1) = true := by
  simp only [programWellFormed, List.length_replicate]; decide
/-- The load port refuses it whole (LV4). -/
theorem test_load_too_large : State.reset.load (List.replicate 3585 1) =
    .next (.programTooLarge, State.reset) := by
  simp only [State.load, List.length_replicate, State.reset]; rfl

/-! ## One step of every instruction -/

/-- SV1. -/
theorem test_cls : let t := after 0x00E0 { start [(15, 1)] with fb := pixels [0, 2047] }
    t.fb = FrameBuffer.clear ∧ t.redraw = true ∧ t.getV 15 = 1 := by decide
/-- SV2. -/
theorem test_cls_sets_redraw : let t := after 0x00E0 (start [])
    t.redraw = true ∧ t.pc = 0x202 := by decide
/-- P3 step 5. -/
theorem test_ret : let t := after 0x00EE { start [] with sp := 1, stack := (Vector.replicate 16 0).set 0 0x204 }
    t.pc = 0x206 ∧ t.sp = 0 ∧ t.getStack 0 = 0x204 := by decide
/-- R85, R111. -/
theorem test_ret_underflow : let t := after 0x00EE (start [])
    t.halt = true ∧ t.fcause = 3 ∧ t.pc = 0x200 := by decide
/-- CV1. -/
theorem test_jp : let t := after 0x1234 (start [])
    t.ir = 0x1234 ∧ t.pc = 0x234 := by decide
/-- P3 step 3 at the last free entry. -/
theorem test_call : let t := after 0x2208 { start [] with sp := 15 }
    t.pc = 0x208 ∧ t.sp = 16 ∧ t.getStack 15 = 0x200 := by decide
/-- P6 step 17. -/
theorem test_call_overflow : let t := after 0x2200 { start [] with sp := 16 }
    t.fcause = 2 ∧ t.sp = 16 ∧ t.pc = 0x200 ∧ t.getStack 15 = 0 := by decide
/-- FV24. -/
theorem test_seVxKk : let t := after 0x3000 (start [])
    t.pc = 0x204 := by decide
/-- CV2. -/
theorem test_seVxKk_no_skip : let t := after 0x3412 (start [])
    t.pc = 0x202 := by decide
/-- R91. -/
theorem test_sneVxKk : let t := after 0x4A12 (start [(10, 0x13)])
    t.pc = 0x204 := by decide
/-- FV20. -/
theorem test_seVxVy : let t := after 0x5110 (start [(1, 7)])
    t.pc = 0x204 := by decide
/-- R92. -/
theorem test_seVxVy_no_skip : let t := after 0x5120 (start [(1, 7)])
    t.pc = 0x202 := by decide
/-- AV1. -/
theorem test_ldVxKk : let t := after 0x6A2F (start [])
    t.getV 10 = 0x2F ∧ t.pc = 0x202 := by decide
/-- AV3. -/
theorem test_addVxKk : let t := after 0x7105 (start [(1, 0xFE)])
    t.getV 1 = 3 ∧ t.getV 15 = 0 := by decide
/-- AV4. -/
theorem test_addVxKk_keeps_flag : let t := after 0x7101 (start [(1, 0xFF), (15, 1)])
    t.getV 1 = 0 ∧ t.getV 15 = 1 := by decide
/-- AV6. -/
theorem test_ldVxVy : let t := after 0x8120 (start [(2, 7)])
    t.getV 1 = 7 ∧ t.getV 2 = 7 := by decide
/-- AV7. -/
theorem test_orVxVy : let t := after 0x8011 (start [(0, 0xF0), (1, 0x0F), (15, 1)])
    t.getV 0 = 0xFF ∧ t.getV 15 = 1 := by decide
/-- AV8. -/
theorem test_andVxVy : let t := after 0x8012 (start [(0, 0xF3), (1, 0x3C)])
    t.getV 0 = 0x30 := by decide
/-- AV9. -/
theorem test_xorVxVy : let t := after 0x8013 (start [(0, 0xF3), (1, 0x3C)])
    t.getV 0 = 0xCF := by decide
/-- AV10. -/
theorem test_addVxVy : let t := after 0x8124 (start [(1, 250), (2, 10)])
    t.getV 1 = 4 ∧ t.getV 15 = 1 := by decide
/-- AV16. -/
theorem test_addVxVy_into_flag : let t := after 0x8F14 (start [(15, 200), (1, 100)])
    t.getV 15 = 44 := by decide
/-- AV19. -/
theorem test_subVxVy : let t := after 0x8125 (start [(1, 5), (2, 10)])
    t.getV 1 = 251 ∧ t.getV 15 = 0 := by decide
/-- AV25. -/
theorem test_subVxVy_flag_operand : let t := after 0x81F5 (start [(1, 9), (15, 3)])
    t.getV 15 = 1 ∧ t.getV 1 = 8 := by decide
/-- AV27, AV30. -/
theorem test_shrVx : let t := after 0x8356 (start [(3, 5), (5, 0xFF)])
    t.getV 3 = 2 ∧ t.getV 15 = 1 ∧ t.getV 5 = 0xFF := by decide
/-- AV31. -/
theorem test_shrVx_flag : let t := after 0x8F06 (start [(15, 3)])
    t.getV 15 = 0 := by decide
/-- AV32. -/
theorem test_subnVxVy : let t := after 0x8127 (start [(1, 3), (2, 10)])
    t.getV 1 = 7 ∧ t.getV 15 = 1 := by decide
/-- AV36. -/
theorem test_subnVxVy_flag_operand : let t := after 0x81F7 (start [(1, 3), (15, 9)])
    t.getV 15 = 1 ∧ t.getV 1 = 0xFE := by decide
/-- AV38. -/
theorem test_shlVx : let t := after 0x830E (start [(3, 0x81)])
    t.getV 3 = 2 ∧ t.getV 15 = 1 := by decide
/-- AV41. -/
theorem test_shlVx_flag : let t := after 0x8F0E (start [(15, 0x80)])
    t.getV 15 = 2 := by decide
/-- FV21. -/
theorem test_sneVxVy : let t := after 0x9120 (start [(1, 9), (2, 8)])
    t.pc = 0x204 := by decide
/-- FV23. -/
theorem test_sneVxVy_same : let t := after 0x9110 (start [(1, 9)])
    t.pc = 0x202 := by decide
/-- MV1. -/
theorem test_ldINnn : let t := after 0xA2F0 (start [])
    t.i = 0x2F0 ∧ t.pc = 0x202 := by decide
/-- R14, R88: the largest PC. -/
theorem test_jpV0Nnn : let t := after 0xBFFF (start [(0, 0xFF)])
    t.pc = 0x10FE := by decide
/-- AV43. -/
theorem test_rndVxKk : let t := after 0xC30F { start [] with rndIn := [0xA7, 0x55] }
    t.getV 3 = 7 ∧ t.rndIn = [0x55] := by decide
/-- AV44. -/
theorem test_rndVxKk_mask_zero : let t := after 0xC300 { start [(3, 9)] with rndIn := [0xFF] }
    t.getV 3 = 0 := by decide
/-- SV5. -/
theorem test_drwVxVyN :
    let t := after 0xD122 { start [(1, 62), (2, 31)] with i := 0x20A, mem := [(0x20A, 0xF0), (0x20B, 0x81)] }
    t.fb = pixels [5, 62, 1984, 1985, 2046, 2047] ∧ t.getV 15 = 0 ∧ t.redraw = true := by decide
/-- SV8. -/
theorem test_drwVxVyN_collision :
    let t := after 0xD011 { start [] with i := 0x300, mem := [(0x300, 0xC0)], fb := pixels [1] }
    t.fb = pixels [0] ∧ t.fb.cell 0 = true ∧ t.fb.cell 1 = false ∧ t.getV 15 = 1 := by decide
/-- TV9 at 0x200. -/
theorem test_skpVx : let t := after 0xE29E { start [(2, 5)] with keyIn := [0x20] }
    t.pc = 0x204 ∧ t.key = 0x20 := by decide
/-- TV13. -/
theorem test_skpVx_index_above_15 : let t := after 0xE29E { start [(2, 16)] with keyIn := [0xFFFF] }
    t.halt = true ∧ t.fcause = 6 ∧ t.pc = 0x200 := by decide
/-- TV11 at 0x200. -/
theorem test_sknpVx : let t := after 0xE2A1 { start [(2, 5)] with keyIn := [0x20] }
    t.pc = 0x202 := by decide
/-- TV12 at 0x200. -/
theorem test_sknpVx_none_held : let t := after 0xE2A1 (start [(2, 5)])
    t.pc = 0x204 := by decide
/-- TV5. -/
theorem test_ldVxDt : let t := after 0xF107 { start [] with dt := 8 }
    t.getV 1 = 8 ∧ t.dt = 7 := by decide
/-- TV17. -/
theorem test_ldVxK : let t := after 0xF30A { start [] with dt := 4, keyIn := [0x80] }
    t.getV 3 = 7 ∧ t.pc = 0x202 ∧ t.dt = 3 := by decide
/-- TV16. -/
theorem test_ldVxK_waits : let t := after 0xF30A { start [] with dt := 4 }
    t.status = some .waiting ∧ t.pc = 0x200 ∧ t.dt = 4 ∧ t.getV 3 = 0 := by decide
/-- TV1. -/
theorem test_ldDtVx : let t := after 0xF015 (start [(0, 10)])
    t.dt = 9 ∧ t.pc = 0x202 := by decide
/-- TV2. -/
theorem test_ldDtVx_zero : let t := after 0xF015 { start [] with dt := 7 }
    t.dt = 0 := by decide
/-- TV7. -/
theorem test_ldStVx : let t := after 0xF318 (start [(3, 2)])
    t.st = 1 := by decide
/-- MV4. -/
theorem test_addIVx : let t := after 0xF21E { start [(2, 1)] with i := 0xFFF }
    t.i = 0x1000 ∧ t.getV 15 = 1 := by decide
/-- MV7. -/
theorem test_addIVx_flag_operand : let t := after 0xFF1E { start [(15, 0x20)] with i := 0xFF0 }
    t.i = 0xFF1 ∧ t.getV 15 = 1 := by decide
/-- MV8. -/
theorem test_ldFVx : let t := after 0xF129 (start [(1, 0x0A)])
    t.i = 0x082 := by decide
/-- MV9. -/
theorem test_ldFVx_all_eight_bits : let t := after 0xF129 (start [(1, 255)])
    t.i = 0x54B := by decide
/-- MV10 at the address of MV12. -/
theorem test_bcdVx : let t := after 0xF333 { start [(3, 156)] with i := 0xFFD }
    t.mem.read 0xFFD = 1 ∧ t.mem.read 0xFFE = 5 ∧ t.mem.read 0xFFF = 6 := by decide
/-- MV14. -/
theorem test_bcdVx_out_of_range : let t := after 0xF333 { start [(3, 42)] with i := 0xFFE }
    t.fcause = 5 ∧ t.mem.read 0xFFE = 0 ∧ t.pc = 0x200 := by decide
/-- MV15. -/
theorem test_stmVx : let t := after 0xF155 { start [(0, 1), (1, 2), (2, 3)] with i := 0x300 }
    t.mem.read 0x300 = 1 ∧ t.mem.read 0x301 = 2 ∧ t.mem.read 0x302 = 0 ∧ t.i = 0x302 := by decide
/-- MV18. -/
theorem test_stmVx_out_of_range : let t := after 0xFF55 { start [(0, 1)] with i := 0xFF1 }
    t.fcause = 5 ∧ t.mem.read 0xFF1 = 0 ∧ t.i = 0xFF1 := by decide
/-- MV20. -/
theorem test_ldmVx : let t := after 0xF265 { start [] with i := 0x300, mem := [(0x300, 1), (0x301, 5), (0x302, 6)] }
    t.getV 0 = 1 ∧ t.getV 1 = 5 ∧ t.getV 2 = 6 ∧ t.i = 0x303 := by decide
/-- MV22. -/
theorem test_ldmVx_out_of_range : let t := after 0xF165 { start [(0, 9)] with i := 0xFFF }
    t.fcause = 5 ∧ t.getV 0 = 9 := by decide

/-! ## The cycle, the load port, the font -/

/-- CV3: the last word of memory runs, and PC leaves the address space. -/
theorem test_fetch_last_word : let t := after 0x6007 { start [] with pc := 0xFFE }
    t.getV 0 = 7 ∧ t.pc = 0x1000 ∧ t.status = some .executed := by decide
/-- CV5. -/
theorem test_fetch_out_of_range : let t := next { start [] with pc := 0xFFF, ir := 0x6007 }
    t.halt = true ∧ t.fcause = 4 ∧ t.ir = 0x6007 ∧ t.pc = 0xFFF := by decide
/-- CV6: an odd PC is legal. -/
theorem test_fetch_odd : let t := next { start [] with pc := 0x201, mem := [(0x201, 0x61), (0x202, 0x09)] }
    t.ir = 0x6109 ∧ t.getV 1 = 9 ∧ t.pc = 0x203 := by decide
/-- CV7 with CV11: nothing loaded. -/
theorem test_unknown_opcode : let t := next { start [] with dt := 5, ir := 0x6007 }
    t.ir = 0 ∧ t.halt = true ∧ t.fcause = 1 ∧ t.pc = 0x200 ∧ t.dt = 5 := by decide
/-- CV8: a halted engine changes nothing, not even KEY. -/
theorem test_halted : let s := { start [] with halt := true, fcause := 1, dt := 5, keyIn := [0xFFFF] }
    next s = { s with status := some (.fault 1) } := by decide
/-- CV9, CV10. -/
theorem test_tick : let t := after 0x6000 { start [] with dt := 5, st := 1 }
    t.dt = 4 ∧ t.st = 0 ∧ (after 0x6000 t).st = 0 := by decide
/-- LV6: the tail of an earlier load survives. -/
theorem test_load_twice : hostRun [.load [0xAA], .load [0xBB, 0xCC], .load [0xDD]] State.reset =
    .next { State.reset with mem := [(0x200, 0xDD), (0x201, 0xCC)] } := rfl
/-- R132, U1: a step and a load before the first reset are refused, and after it they are not. -/
theorem test_before_reset : let s := { start [(1, 7)] with wasReset := false, mem := [(0x200, 0x60)] }
    step s = .refused .beforeReset ∧ hostRun [.load [0x12]] s = .refused .beforeReset ∧
    hostRun [.writeKeys 3, .reset, .load [0x12]] s = .next { State.reset with keyIn := [3], mem := [(0x200, 0x12)] } :=
  ⟨rfl, rfl, rfl⟩
/-- LV7: reset leaves a fault and erases the program. -/
theorem test_reset : let t := State.hostReset { start [] with halt := true, fcause := 2, sp := 16, mem := [(0x200, 1)] }
    t.halt = false ∧ t.fcause = 0 ∧ t.sp = 0 ∧ t.mem.read 0x200 = 0 := by decide
/-- EX7, MV8: with the default FONT of R129 the five bytes from 0x082 are the glyph of A. The premise is named, as R129
asks. -/
theorem test_font_glyph_A (h : Config.font.toList = Config.customaryFont) :
    (List.range 5).map (fun j => State.reset.mem.read (0x82 + j)) = [0xF0, 0x90, 0xF0, 0x90, 0x90] := by
  have e : Config.font = ⟨Config.customaryFont.toArray, rfl⟩ := Vector.toList_inj.1 (h.trans rfl)
  simp only [State.reset, Memory.read, Memory.unlisted, e]
  rfl

/-! ## Witnesses: for every statement with hypotheses, a state and operands that meet them, clause by clause -/

/-- EncodeOfDecodeIsTheWord. -/
theorem witness_encodeOfDecode : decode 0x812E = .ok (.shlVx 1 2) := by decide
/-- DecodeAgreesWithTheOpcodeMap, RowsNeverOverlapAndShiftsIgnoreY: a row that covers a word, and the shift minors. -/
theorem witness_rows : (∃ r ∈ opcodeRows, r.covers 0xDFFF = true ∧ 0xDFFF &&& r.mask = r.value) ∧
    (6 : Fin 16) ∈ [(6 : Fin 16), 14] := by decide
/-- UnknownWordsAreTheUnlistedOnes: a word under each clause, and the two of major 0 under none. -/
theorem witness_unknown : let ws : List Word := [0x00FF, 0x512F, 0x9121, 0x812F, 0xE1FF, 0xFFFF]
    ws.map decode = ws.map fun w => .error (.unknownOpcode w) := by decide
/-- SubWritesStrictFlagThenDifference, SubnWritesStrictFlagThenDifference: 0 on equal operands, 1 on
greater. -/
theorem witness_sub : (0 = if ((start []).getV 1).toNat > ((start []).getV 2).toNat then 1 else 0) ∧
    (1 = if ((start [(1, 1)]).getV 1).toNat > ((start [(1, 1)]).getV 2).toNat then 1 else 0) := by decide
/-- FlagRegisterAsOperandFollowsWrittenOrder: operands other than V[15]. -/
theorem witness_flagOperand : (1 : Reg) ≠ 15 ∧ (14 : Reg) ≠ 15 ∧
    ((start [(15, 0x90)]).getV 15).toNat = 0x90 := by decide
/-- RandomByteIsMaskedByKk: a supplied byte. -/
theorem witness_rnd : ({ start [] with rndIn := [0xA7] } : State).rndIn = 0xA7 :: [] := by decide
/-- ReturnPopsAndStepsPastTheCall: one live entry, sixteen, none. -/
theorem witness_ret : ({ start [] with sp := 1 } : State).sp.val = (0 : Fin 16).val + 1 ∧
    ({ start [] with sp := 16 } : State).sp.val = (15 : Fin 16).val + 1 ∧ (start []).sp.val = 0 := by decide
/-- CallPushesItsOwnAddress, CallThenReturnResumesAfterTheCall: empty, one entry free, full. -/
theorem witness_call : (start []).sp.val = (0 : Fin 16).val ∧
    ({ start [] with sp := 15 } : State).sp.val = (15 : Fin 16).val ∧
    ({ start [] with sp := 15 } : State).sp.val < 16 ∧ ({ start [] with sp := 16 } : State).sp.val = 16 := by decide
/-- RegisterSkipsAdvanceByFourOrTwo: a reserved last digit, and both outcomes of a comparison. -/
theorem witness_skip : (1 : Fin 16) ≠ 0 ∧ (15 : Fin 16) ≠ 0 ∧
    decide (((start []).getV 1).toNat = (0 : Byte).toNat) = true ∧
    decide (((start []).getV 1).toNat = (1 : Byte).toNat) = false := by decide
/-- AddIndexFlagsThe12BitRange: the last sum without the flag and the first with it. -/
theorem witness_addIndex :
    let s : State := { start [(1, 0xFF)] with i := 0xF00 }
    let t : State := { start [(1, 0xFF)] with i := 0xF01 }
    (0 = if s.i.toNat + (s.getV 1).toNat > 0xFFF then 1 else 0) ∧
    (1 = if t.i.toNat + (t.getV 1).toNat > 0xFFF then 1 else 0) := by decide
/-- BcdStoresTheDecimalDigits: the last address it may start at. -/
theorem witness_bcd : let s := { start [(1, 255)] with i := 0xFFD, mem := [(0xFFE, 7)] }
    s.mem.wf ∧ s.i.toNat + 2 ≤ 0xFFF := by decide
/-- BlockStoreWritesV0ToVx, BlockLoadReadsV0ToVx: the whole file up to 0xFFF, one register at 0xFFF. -/
theorem witness_block : let s := { start [(0, 1)] with i := 0xFF0, mem := [(0xFFE, 7)] }
    s.mem.wf ∧ s.i.toNat + (15 : Reg).val ≤ 0xFFF ∧
    ({ s with i := 0xFFF } : State).i.toNat + (0 : Reg).val ≤ 0xFFF := by decide
/-- BlockStoreThenLoadRestoresRegisters. -/
theorem witness_storeThenLoad : let s := { start [(0, 1)] with i := 0xFF0 }
    s.mem.wf ∧ s.i = (0xFF0 : Address).setWidth 16 ∧ (0xFF0 : Address).toNat + (15 : Reg).val ≤ 0xFFF := by decide
/-- DataAccessAboveFffFaultsWhole: the first address out of range of each form. -/
theorem witness_dataAccess : (0xFFE : Word).toNat + 2 > 0xFFF ∧ (0xFF1 : Word).toNat + (15 : Reg).val > 0xFFF ∧
    (1 : Fin 16).val > 0 ∧ (0x1000 : Word).toNat + (1 : Fin 16).val - 1 > 0xFFF := by decide
/-- DelayTimerIsReadBeforeTheTick, FetchIsBigEndian: the last word of memory, on an engine that runs. -/
theorem witness_fetch : let s := { start [] with pc := 0xFFE, dt := 8, mem := [(0xFFE, 0xF1), (0xFFF, 0x07)] }
    s.running ∧ s.pc.toNat ≤ 0xFFE ∧ s.mem.readWord s.pc.toNat = numX 15 1 0x07 ∧
    decode (s.mem.readWord s.pc.toNat) = .ok (.ldVxDt 1) := by decide
/-- StepRunsTheDecodedInstruction: all its hypotheses together, the execute phase answering a next state among them. -/
theorem witness_stepRuns : let s := { start [] with dt := 8, mem := [(0x200, 0xF1), (0x201, 0x07)] }
    s.running ∧ s.pc.toNat ≤ 0xFFE ∧ decode (s.mem.readWord s.pc.toNat) = .ok (.ldVxDt 1) ∧
    ∃ t, exec (.ldVxDt 1)
      { s with key := s.keyIn.headD s.key, keyIn := s.keyIn.tail, ir := s.mem.readWord s.pc.toNat } = .next t :=
  ⟨⟨rfl, rfl⟩, by decide, by decide, _, rfl⟩
/-- PlacedWordIsTheOneFetched. -/
theorem witness_placed : let s := { start [] with pc := 0xFFE, mem := [(0xFFE, 7)] }
    s.mem.wf ∧ s.pc.toNat ≤ 0xFFE ∧ decode 0x00E0 = .ok .cls ∧ decode 0x00E1 = .error (.unknownOpcode 0x00E1) := by
  decide
/-- KeypadSkipsTestTheNumberedKey: the last key number and the first that is none. -/
theorem witness_keypad : ((start [(2, 15)]).getV 2).toNat ≤ 15 ∧ ((start [(2, 16)]).getV 2).toNat > 15 := by decide
/-- WaitForKeyReportsAHeldKey: key 15 held, several held, none held. -/
theorem witness_waitForKey : (∃ k < 16, (0x8000 : BitVec 16).getLsbD k = true) ∧
    (∃ k < 16, (0x0208 : BitVec 16).getLsbD k = true) ∧ ∀ k < 16, (0 : BitVec 16).getLsbD k = false := by decide
/-- DrawXorsTheSpriteAndReportsCollision, SecondDrawRestoresTheFramebuffer: no row with I anywhere, fifteen rows that end
at 0xFFF. -/
theorem witness_draw : (1 : Reg) ≠ 15 ∧ (2 : Reg) ≠ 15 ∧
    ((0 : Fin 16).val > 0 → (0xFFFF : Word).toNat + (0 : Fin 16).val - 1 ≤ 0xFFF) ∧
    ((15 : Fin 16).val > 0 → (0xFF1 : Word).toNat + (15 : Fin 16).val - 1 ≤ 0xFFF) := by decide
/-- KeypadIsSampledOncePerStep: a word written, none written. -/
theorem witness_sampled : ({ start [] with keyIn := [3, 4] } : State).running ∧
    ({ start [] with keyIn := [3, 4] } : State).keyIn = 3 :: [4] ∧ (start []).keyIn = [] := by decide
/-- StepsAreTotalAfterResetAndRefusedBefore: an engine that was reset, one that was not and whose host writes its ports. -/
theorem witness_beforeReset : (start []).wasReset = true ∧
    ({ start [] with wasReset := false } : State).wasReset = false ∧
    ∀ m ∈ [HostAction.redrawAck, .writeKeys 3, .supplyRnd 7],
      m = .redrawAck ∨ (∃ k, m = .writeKeys k) ∨ ∃ b, m = .supplyRnd b :=
  ⟨rfl, rfl, by simp⟩
/-- HaltedStepChangesNothing, HaltedRunStandsStill: a halted state of the invariant. -/
theorem witness_halted : ∃ s : State, s.Inv ∧ s.halt = true :=
  ⟨{ start [] with halt := true, fcause := 6, status := some (.fault 6) },
    ⟨by decide, by decide, by decide, by decide, by decide, by decide, (fun c h => by cases h; decide), rfl⟩, rfl⟩
/-- EveryStepKeepsTheInvariant, EveryHostRunKeepsTheInvariant: a running state of the invariant with the largest PC. -/
theorem witness_invariant : ∃ s : State, s.Inv ∧ s.pc = 0x10FE ∧ s.mem ≠ [] :=
  ⟨{ start [] with pc := 0x10FE, mem := [(0x300, 1)] },
    ⟨by decide, by decide, by decide, by decide, by decide, by decide, (fun c h => by cases h), rfl⟩,
    by decide, by decide⟩
/-- StepFaultsExactlyOnTheListedConditions, FaultEntryChangesNothingElse: a running state of each cause, and of none. -/
theorem witness_stepFault :
    stepFault { start [] with pc := 0xFFF } = some .fetchOutOfRange ∧
    stepFault (start []) = some .unknownOpcode ∧
    stepFault { start [] with sp := 16, mem := [(0x200, 0x22)] } = some .stackOverflow ∧
    stepFault { start [] with mem := [(0x201, 0xEE)] } = some .stackUnderflow ∧
    stepFault { start [] with i := 0xFFE, mem := [(0x200, 0xF3), (0x201, 0x33)] } = some .dataOutOfRange ∧
    stepFault { start [(2, 16)] with mem := [(0x200, 0xE2), (0x201, 0x9E)] } = some .keyIndexOutOfRange ∧
    stepFault { start [] with mem := [(0x200, 0x60)] } = none ∧ (start []).running := by decide
/-- TimersTickOncePerCompletedStep: the two timer loads and another instruction complete; a step that waits. -/
theorem witness_timers : (after 0xF015 (start [])).status = some .executed ∧ decode 0xF015 = .ok (.ldDtVx 0) ∧
    (after 0xF018 (start [])).status = some .executed ∧ decode 0xF018 = .ok (.ldStVx 0) ∧
    (after 0x6000 (start [])).status = some .executed ∧ (after 0xF00A (start [])).status ≠ some .executed := by decide
/-- WaitingStepKeepsPcAndTimers. -/
theorem witness_waiting : let s := (start []).withFetchWord 16 0xF30A
    s.running ∧ step s = .next (next s) ∧ (next s).status = some .waiting := ⟨⟨rfl, rfl⟩, rfl, by decide⟩
/-- RedrawIsSetByClearAndDrawAlone: REDRAW comes up, and stays up. -/
theorem witness_redraw : let s := (start []).withFetchWord 16 0x00E0
    step s = .next (next s) ∧ s.redraw = false ∧ (next s).redraw = true ∧
    (after 0x6000 (next s)).redraw = true := ⟨rfl, rfl, by decide, by decide⟩
/-- OnlyTheListedRegistersAreWritten: an instruction that completes and a register outside its column. -/
theorem witness_listed : exec (.ldVxKk 3 7) (start []) = .next ((start []).setV 3 7).advance ∧
    ¬ writesV (.ldVxKk 3 7) 4 := ⟨rfl, by rw [writesV]; decide⟩
/-- OnlyTheNamedInstructionsWriteEachSpace: each space is written by an instruction that names it. -/
theorem witness_named :
    (after 0x2300 (start [])).stack ≠ (start []).stack ∧
    (after 0x00E0 { start [] with fb := pixels [0] }).fb ≠ pixels [0] ∧
    (after 0xF133 { start [(1, 1)] with i := 0x300 }).mem ≠ [(0x200, 0xF1), (0x201, 0x33)] ∧
    (after 0xF115 (start [(1, 9)])).dt ≠ 0 ∧ (after 0xF118 (start [(1, 9)])).st ≠ 0 ∧
    (after 0xA001 (start [])).i ≠ 0 := by decide
/-- OnlyTransfersAndSkipsLeaveTheLine: completed instructions of each clause. -/
theorem witness_line : ∀ w ∈ [0x1234, 0x2208, 0xB000, 0x6000, 0x3000, 0x4000, 0x5000, 0x9010],
    (after w (start [])).status = some .executed := by decide
/-- SoundRedrawAndOpcodeRegisterAreNeverRead, EveryStepKeepsTheInvariant: a step answers a next state. -/
theorem witness_step : let s := { start [] with st := 9, redraw := true, ir := 0xFFFF, mem := [(0x200, 0x60)] }
    step s = .next (next s) := rfl
/-- ResetGivesTheLaunchState. -/
theorem witness_reset : ∃ t, hostAct .reset { start [(1, 1)] with halt := true, fcause := 1 } = .next t := ⟨_, rfl⟩
/-- LoadPlacesTheProgramAndNothingElse: a canonical memory; no byte, the longest program, one byte more. -/
theorem witness_load : (start []).wasReset = true ∧ Memory.wf [(0x300, 1)] ∧ ([] : List Byte).length ≤ 3584 ∧
    (List.replicate 3584 (0x12 : Byte)).length ≤ 3584 ∧ (List.replicate 3585 (0x12 : Byte)).length > 3584 :=
  ⟨rfl, by decide, by decide, by rw [List.length_replicate], by rw [List.length_replicate]; decide⟩
/-- HostPortsTouchOnlyTheirOwn. -/
theorem witness_hostPorts : (start []).running := ⟨rfl, rfl⟩
/-- CanonicalMemoriesThatReadAlikeAreEqual: a memory reached by writing a byte and writing it back reads as the empty
one. -/
theorem witness_canonical : Memory.wf [] ∧ Memory.wf ((Memory.write [] 0x300 1).write 0x300 0) ∧
    ∀ a, Memory.read [] a = Memory.read ((Memory.write [] 0x300 1).write 0x300 0) a :=
  ⟨by decide, by decide, fun a => by
    have e : (Memory.write [] 0x300 1).write 0x300 0 = [] := by decide
    rw [e]⟩

end Sys2Proof.Tests
end

section
/-! The fetch of 20_memory.md R33 as a step shows it: the word IR holds after the step, whatever the step's outcome, and the
two bytes it is made of. -/

namespace Sys2Proof.Machine

/-- The first byte of a word is its high byte (R33). -/
@[simp] theorem extractHigh_wordOfBytes (hi lo : Byte) : (wordOfBytes hi lo).extractLsb' 8 8 = hi :=
  BitVec.extractLsb'_append_eq_left

/-- The second byte of a word is its low byte (R33). -/
@[simp] theorem extractLow_wordOfBytes (hi lo : Byte) : (wordOfBytes hi lo).extractLsb' 0 8 = lo :=
  BitVec.extractLsb'_append_eq_right

/-- A step that fetches leaves the fetched word in IR, whether it faults after the fetch, waits or completes (R20, D28). -/
theorem step_leaves_fetched_word {s : State} (h : s.running) (hp : s.pc.toNat ≤ 0xFFE) :
    ∃ t, step s = .next t ∧ t.ir = s.mem.readWord s.pc.toNat := by
  rcases step_cases s h with ⟨hout, -⟩ | ⟨-, c, -, hstep⟩ | ⟨-, -, -, -, hstep⟩ | ⟨-, -, i, t, -, -, hdone, hstep⟩
  · omega
  · exact ⟨_, hstep, s.fetched_ir⟩
  · exact ⟨_, hstep, s.fetched_ir⟩
  · exact ⟨_, hstep, by rw [State.tick_ir, hdone.ir, s.fetched_ir]⟩

/-- Settles O40: the word a step leaves in IR is read from PC, and its high byte is the one at PC. -/
theorem fetchIsBigEndian : Obligations.FetchIsBigEndian := by
  intro s hrun hp
  obtain ⟨t, hstep, hir⟩ := step_leaves_fetched_word hrun hp
  refine ⟨t, hstep, ?_⟩
  rw [hir, Memory.readWord]
  exact ⟨bytes_toNat _ _, extractHigh_wordOfBytes _ _, extractLow_wordOfBytes _ _⟩

end Sys2Proof.Machine
end

section
/-! REDRAW as 40_cycle.md R67 has it: what one execute phase does to it, by the end the phase takes, and then what one step
does. -/

namespace Sys2Proof.Machine

/-- The two instructions that write the framebuffer, and REDRAW with it (R67). -/
def drawsOnScreen (i : Instr) : Prop := i = .cls ∨ ∃ x y n, i = .drwVxVyN x y n

@[simp] theorem State.fetched_redraw (s : State) : s.fetched.redraw = s.redraw := by
  simp [State.fetched]

/-- A pop writes SP alone. -/
theorem State.pop_redraw {s t : State} {w : Word} (h : s.pop = some (w, t)) : t.redraw = s.redraw := by
  unfold State.pop at h
  split at h <;> cases h
  rfl

/-- A push writes the stack and SP alone. -/
theorem State.push_redraw {s t : State} {w : Word} (h : s.push w = some t) : t.redraw = s.redraw := by
  unfold State.push at h
  split at h <;> cases h
  rfl

/-- A block load writes registers alone. -/
@[simp] theorem State.loadBlock_redraw (s : State) (rs : List Reg) : (s.loadBlock rs).redraw = s.redraw := by
  rw [(s.loadBlock_spec rs).1]

/-- An instruction that does not draw leaves REDRAW as it was, at every end of its execute phase. -/
theorem exec_keeps_redraw {i : Instr} {s t : State} (hi : ¬ drawsOnScreen i) (h : exec i s = .next t) :
    t.redraw = s.redraw := by
  cases i
  case cls => exact absurd (.inl rfl) hi
  case drwVxVyN x y n => exact absurd (.inr ⟨x, y, n, rfl⟩) hi
  case ret =>
    simp only [exec, execRet] at h
    split at h <;> cases h
    · rfl
    · next hpop => simpa using State.pop_redraw hpop
  case callNnn =>
    simp only [exec, execCallNnn] at h
    split at h <;> cases h
    · rfl
    · next hpush => simpa using State.push_redraw hpush
  case bcdVx | stmVx | ldmVx | skpVx | sknpVx | ldVxK =>
    simp only [exec, execBcdVx, execStmVx, execLdmVx, execSkpVx, execSknpVx, execLdVxK] at h
    split at h <;> cases h <;> simp
  case rndVxKk => cases h; simp
  all_goals cases h; rfl

/-- A drawing instruction that completes sets REDRAW; the one fault it can end in is Dxyn's, which does not complete. -/
theorem exec_sets_redraw {i : Instr} {s t : State} (hi : drawsOnScreen i) (h : exec i s = .next t)
    (hdone : t.status = some .executed) : t.redraw = true := by
  obtain rfl | ⟨x, y, n, rfl⟩ := hi
  · cases h; rfl
  · simp only [exec, execDrwVxVyN] at h
    split at h <;> cases h
    · rfl
    · simp at hdone

/-- What an execute phase leaves in REDRAW, with the completed draws as the only ones that set it. -/
theorem exec_redraw_iff {i : Instr} {s t : State} (h : exec i s = .next t) :
    t.redraw = true ↔ s.redraw = true ∨ (t.status = some .executed ∧ drawsOnScreen i) := by
  rcases exec_cases i s with ⟨c, -, hraise⟩ | ⟨-, -, -, hwait⟩ | ⟨-, u, hu, hdone⟩
  · cases hraise.symm.trans h; simp
  · cases hwait.symm.trans h; simp
  · cases hu.symm.trans h
    by_cases hi : drawsOnScreen i
    · simp [exec_sets_redraw hi h hdone.status, hdone.status, hi]
    · simp [exec_keeps_redraw hi h, hi]

/-- A step leaves REDRAW set exactly when it was set before or the step completed a drawing instruction, the one in IR. -/
theorem step_redraw_iff {s t : State} (h : step s = .next t) :
    t.redraw = true ↔ s.redraw = true ∨
      (t.status = some .executed ∧ ∃ i, decode t.ir = .ok i ∧ drawsOnScreen i) := by
  obtain hreset | hreset := s.wasReset.eq_false_or_eq_true
  swap
  · cases (step_before_reset hreset).symm.trans h
  obtain hhalt | hhalt := s.halt.eq_false_or_eq_true
  · cases (step_halted hreset hhalt).symm.trans h; simp
  rcases step_cases s ⟨hreset, hhalt⟩ with ⟨-, -, hstep⟩ | ⟨-, c, -, hstep⟩ | ⟨-, -, -, -, hstep⟩ |
    ⟨-, -, i, u, hdecode, hexec, hdone, hstep⟩
  · cases hstep.symm.trans h; simp
  · cases hstep.symm.trans h; simp
  · cases hstep.symm.trans h; simp
  · cases hstep.symm.trans h
    simp [exec_redraw_iff hexec, hdone.status, hdone.ir, State.fetched_ir, hdecode]

/-- Settles O49: a completed 00E0 or Dxyn sets REDRAW, and neither an execute phase nor a step does anything else to it. -/
theorem redrawIsSetByClearAndDrawAlone : Obligations.RedrawIsSetByClearAndDrawAlone := by
  refine ⟨fun i s t h => exec_redraw_iff h, fun s t h hs => (step_redraw_iff h).2 (.inl hs), ?_⟩
  intro s t h hs ht
  obtain hset | ⟨-, i, hdecode, rfl | ⟨x, y, n, rfl⟩⟩ := (step_redraw_iff h).1 ht
  · simp [hs] at hset
  · exact .inl hdecode
  · exact .inr ⟨x, y, n, hdecode⟩

end Sys2Proof.Machine
end

section
/-! The register instructions of 41_arithmetic.md that write one register and no flag (R73 to R78): the words they are
decoded from, what their execute phase ends in, and what a write of one register followed by `advance` leaves unchanged. -/

namespace Sys2Proof.Machine

/-! ### The number formats are the packers of the encoder -/

theorem numXkk_eq_packXkk (op : BitVec 4) (x : Reg) (kk : Byte) : numXkk op.toNat x kk = packXkk op x kk :=
  BitVec.eq_of_toNat_eq (by rw [packXkk_toNat, numXkk, BitVec.toNat_ofNat]; omega)

theorem numXy_eq_packXy (op : BitVec 4) (x y d : Fin 16) : numXy op.toNat x y d = packXy op x y (regBits d) :=
  BitVec.eq_of_toNat_eq (by rw [packXy_toNat, regBits_toNat, numXy, BitVec.toNat_ofNat]; omega)

/-! ### Decoding the words 6xkk, 7xkk and 8xyd -/

theorem decode_num6xkk (x : Reg) (kk : Byte) : decode (numXkk 6 x kk) = .ok (.ldVxKk x kk) := by
  rw [show numXkk 6 x kk = packXkk 6 x kk from numXkk_eq_packXkk 6 x kk]
  simp [decode]

theorem decode_num7xkk (x : Reg) (kk : Byte) : decode (numXkk 7 x kk) = .ok (.addVxKk x kk) := by
  rw [show numXkk 7 x kk = packXkk 7 x kk from numXkk_eq_packXkk 7 x kk]
  simp [decode]

/-- A word of major opcode 8 is decoded by its low digit. -/
theorem decode_num8xy (x y d : Fin 16) : decode (numXy 8 x y d) = decode8 (packXy 8 x y (regBits d)) := by
  rw [show numXy 8 x y d = packXy 8 x y (regBits d) from numXy_eq_packXy 8 x y d]
  simp [decode]

theorem decode_num8xy0 (x y : Reg) : decode (numXy 8 x y 0) = .ok (.ldVxVy x y) := by
  rw [decode_num8xy]; simp [decode8, regBits]

theorem decode_num8xy1 (x y : Reg) : decode (numXy 8 x y 1) = .ok (.orVxVy x y) := by
  rw [decode_num8xy]; simp [decode8, regBits]

theorem decode_num8xy2 (x y : Reg) : decode (numXy 8 x y 2) = .ok (.andVxVy x y) := by
  rw [decode_num8xy]; simp [decode8, regBits]

theorem decode_num8xy3 (x y : Reg) : decode (numXy 8 x y 3) = .ok (.xorVxVy x y) := by
  rw [decode_num8xy]; simp [decode8, regBits]

/-! ### The end of the execute phase: one register written, then `advance` -/

theorem exec_ldVxKk (x : Reg) (kk : Byte) (s : State) : exec (.ldVxKk x kk) s = .next (s.setV x kk).advance := rfl

theorem exec_addVxKk (x : Reg) (kk : Byte) (s : State) :
    exec (.addVxKk x kk) s = .next (s.setV x (s.getV x + kk)).advance := rfl

theorem exec_ldVxVy (x y : Reg) (s : State) : exec (.ldVxVy x y) s = .next (s.setV x (s.getV y)).advance := rfl

theorem exec_orVxVy (x y : Reg) (s : State) :
    exec (.orVxVy x y) s = .next (s.setV x (s.getV x ||| s.getV y)).advance := rfl

theorem exec_andVxVy (x y : Reg) (s : State) :
    exec (.andVxVy x y) s = .next (s.setV x (s.getV x &&& s.getV y)).advance := rfl

theorem exec_xorVxVy (x y : Reg) (s : State) :
    exec (.xorVxVy x y) s = .next (s.setV x (s.getV x ^^^ s.getV y)).advance := rfl

theorem State.getV_setV_advance_same (s : State) (x : Reg) (b : Byte) : (s.setV x b).advance.getV x = b := by simp

theorem State.getV_setV_advance_of_ne (s : State) {x r : Reg} (b : Byte) (h : r ≠ x) :
    (s.setV x b).advance.getV r = s.getV r := by simp [h]

/-- The frame of an instruction that writes one register: every other register, every other field and every byte of memory
stays, PC moves to the next word. -/
theorem State.setV_advance_frame (s : State) (x : Reg) (b : Byte) :
    (∀ r, r ≠ x → (s.setV x b).advance.getV r = s.getV r) ∧
    (s.setV x b).advance = { s with v := (s.setV x b).advance.v, pc := s.pc + 2, status := some .executed } ∧
    ∀ a, (s.setV x b).advance.mem.read a = s.mem.read a :=
  ⟨fun _ hr => s.getV_setV_advance_of_ne b hr, rfl, fun _ => rfl⟩

/-! ### The obligations -/

/-- Settles O7: 6xkk is the write of `kk` to one register. -/
theorem loadImmediateWritesKk : Obligations.LoadImmediateWritesKk := fun x kk s =>
  ⟨decode_num6xkk x kk, _, exec_ldVxKk x kk s, s.getV_setV_advance_same x kk, s.setV_advance_frame x kk⟩

/-- Settles O8: 7xkk is the write of the sum of two bytes, which wraps at 256, to one register, whether it is run alone or
after 6xkk. -/
theorem addImmediateWrapsWithoutFlag : Obligations.AddImmediateWrapsWithoutFlag := by
  constructor
  · intro x kk s
    refine ⟨decode_num7xkk x kk, _, exec_addVxKk x kk s, ?_, s.setV_advance_frame x _⟩
    rw [State.getV_setV_advance_same, BitVec.toNat_add]
  · intro x kk s
    refine ⟨_, _, exec_ldVxKk x kk s, exec_addVxKk x 1 _, ?_, fun r hr => ?_⟩
    · rw [State.getV_setV_advance_same, State.getV_setV_advance_same, BitVec.toNat_add]
      rfl
    · rw [State.getV_setV_advance_of_ne _ _ hr, State.getV_setV_advance_of_ne _ _ hr]

/-- Settles O9: 8xy0 is the write of V[y] to one register. -/
theorem copyWritesVy : Obligations.CopyWritesVy := fun x y s =>
  ⟨decode_num8xy0 x y, _, exec_ldVxVy x y s, s.getV_setV_advance_same x _, s.setV_advance_frame x _⟩

/-- Settles O10: the three are the writes of the bitwise or, and, exclusive or of V[x] and V[y] to one register. -/
theorem bitwiseInstructionsActBitByBit : Obligations.BitwiseInstructionsActBitByBit := by
  intro x y s
  refine ⟨decode_num8xy1 x y, decode_num8xy2 x y, decode_num8xy3 x y, fun p hp => ?_⟩
  obtain rfl | rfl | rfl : p = (.orVxVy x y, or) ∨ p = (.andVxVy x y, and) ∨ p = (.xorVxVy x y, Bool.xor) := by
    simpa using hp
  · exact ⟨_, exec_orVxVy x y s, fun k _ => by rw [State.getV_setV_advance_same, BitVec.getLsbD_or],
      s.setV_advance_frame x _⟩
  · exact ⟨_, exec_andVxVy x y s, fun k _ => by rw [State.getV_setV_advance_same, BitVec.getLsbD_and],
      s.setV_advance_frame x _⟩
  · exact ⟨_, exec_xorVxVy x y s, fun k _ => by rw [State.getV_setV_advance_same, BitVec.getLsbD_xor],
      s.setV_advance_frame x _⟩

end Sys2Proof.Machine
end

section
/-! The jumps and the register skips of 42_control_flow.md (R86, R88 to R93): the words they are decoded from, and an execute
phase that ends in one write of PC. -/

namespace Sys2Proof.Machine

theorem numNnn_eq_packNnn (op : BitVec 4) (nnn : Address) : numNnn op.toNat nnn = packNnn op nnn :=
  BitVec.eq_of_toNat_eq (by rw [packNnn_toNat, numNnn, BitVec.toNat_ofNat]; omega)

/-! ### Decoding the words 1nnn, Bnnn, 3xkk, 4xkk, 5xyd and 9xyd -/

theorem decode_num1nnn (nnn : Address) : decode (numNnn 1 nnn) = .ok (.jpNnn nnn) := by
  rw [show numNnn 1 nnn = packNnn 1 nnn from numNnn_eq_packNnn 1 nnn]
  simp [decode]

theorem decode_numBnnn (nnn : Address) : decode (numNnn 11 nnn) = .ok (.jpV0Nnn nnn) := by
  rw [show numNnn 11 nnn = packNnn 11 nnn from numNnn_eq_packNnn 11 nnn]
  simp [decode]

theorem decode_num3xkk (x : Reg) (kk : Byte) : decode (numXkk 3 x kk) = .ok (.seVxKk x kk) := by
  rw [show numXkk 3 x kk = packXkk 3 x kk from numXkk_eq_packXkk 3 x kk]
  simp [decode]

theorem decode_num4xkk (x : Reg) (kk : Byte) : decode (numXkk 4 x kk) = .ok (.sneVxKk x kk) := by
  rw [show numXkk 4 x kk = packXkk 4 x kk from numXkk_eq_packXkk 4 x kk]
  simp [decode]

theorem regBits_eq_zero (d : Fin 16) : regBits d = 0#4 ↔ d = 0 := by
  rw [← BitVec.toNat_inj, regBits_toNat, ← Fin.val_inj]; rfl

/-- A word of major opcode 5 is an instruction exactly with low digit 0 (R92). -/
theorem decode_num5xy (x y d : Fin 16) :
    decode (numXy 5 x y d) = if d = 0 then .ok (.seVxVy x y) else .error (.unknownOpcode (numXy 5 x y d)) := by
  rw [show numXy 5 x y d = packXy 5 x y (regBits d) from numXy_eq_packXy 5 x y d]
  simp [decode, regBits_eq_zero]

/-- A word of major opcode 9 is an instruction exactly with low digit 0 (R93). -/
theorem decode_num9xy (x y d : Fin 16) :
    decode (numXy 9 x y d) = if d = 0 then .ok (.sneVxVy x y) else .error (.unknownOpcode (numXy 9 x y d)) := by
  rw [show numXy 9 x y d = packXy 9 x y (regBits d) from numXy_eq_packXy 9 x y d]
  simp [decode, regBits_eq_zero]

/-! ### Ends of the execute phase that write PC alone -/

/-- The frame of an instruction that only moves PC: every other field and every byte of memory stays. -/
theorem State.finishAt_frame (s : State) (target : Word) :
    s.finishAt target = { s with pc := (s.finishAt target).pc, status := some .executed } ∧
    ∀ a, (s.finishAt target).mem.read a = s.mem.read a :=
  ⟨rfl, fun _ => rfl⟩

theorem zextAddress_toNat (nnn : Address) : (zextAddress nnn).toNat = nnn.toNat := by
  rw [zextAddress, BitVec.toNat_setWidth]; omega

/-- The 13-bit sum of R88 fits the sixteen bits of PC, so it does not wrap. -/
theorem indexedTarget_toNat (nnn : Address) (v0 : Byte) : (indexedTarget nnn v0).toNat = nnn.toNat + v0.toNat := by
  rw [indexedTarget, BitVec.toNat_add, zextAddress_toNat, BitVec.toNat_setWidth]; omega

/-- The skip rule (R89) with its wrap at 65536. -/
theorem State.skipIf_pc_toNat (s : State) (c : Bool) :
    (s.skipIf c).pc.toNat = (s.pc.toNat + if c then 4 else 2) % 65536 := by
  rw [State.skipIf, State.finishAt_pc, BitVec.toNat_add]
  cases c <;> rfl

theorem exec_jpNnn (nnn : Address) (s : State) : exec (.jpNnn nnn) s = .next (s.finishAt (zextAddress nnn)) := rfl

theorem exec_jpV0Nnn (nnn : Address) (s : State) :
    exec (.jpV0Nnn nnn) s = .next (s.finishAt (indexedTarget nnn (s.getV 0))) := rfl

/-! ### The comparisons of the skips, on the numbers the registers hold -/

theorem byte_beq_eq_decide (a b : Byte) : (a == b) = decide (a.toNat = b.toNat) := by
  simp only [beq_eq_decide, BitVec.toNat_inj]

theorem byte_bne_eq_decide (a b : Byte) : (a != b) = decide (a.toNat ≠ b.toNat) := by
  rw [bne, byte_beq_eq_decide, decide_not]

theorem exec_seVxKk (x : Reg) (kk : Byte) (s : State) :
    exec (.seVxKk x kk) s = .next (s.skipIf (decide ((s.getV x).toNat = kk.toNat))) := by
  rw [← byte_beq_eq_decide]; rfl

theorem exec_sneVxKk (x : Reg) (kk : Byte) (s : State) :
    exec (.sneVxKk x kk) s = .next (s.skipIf (decide ((s.getV x).toNat ≠ kk.toNat))) := by
  rw [← byte_bne_eq_decide]; rfl

theorem exec_seVxVy (x y : Reg) (s : State) :
    exec (.seVxVy x y) s = .next (s.skipIf (decide ((s.getV x).toNat = (s.getV y).toNat))) := by
  rw [← byte_beq_eq_decide]; rfl

theorem exec_sneVxVy (x y : Reg) (s : State) :
    exec (.sneVxVy x y) s = .next (s.skipIf (decide ((s.getV x).toNat ≠ (s.getV y).toNat))) := by
  rw [← byte_bne_eq_decide]; rfl

/-! ### The obligations -/

/-- Settles O18: 1nnn is the write of the zero-extended `nnn` to PC. -/
theorem jumpSetsPcToNnn : Obligations.JumpSetsPcToNnn := fun nnn s =>
  ⟨decode_num1nnn nnn, _, exec_jpNnn nnn s, zextAddress_toNat nnn, s.finishAt_frame _⟩

/-- Settles O21: Bnnn is the write of a sum to PC that is too small to wrap. -/
theorem indexedJumpAddsV0 : Obligations.IndexedJumpAddsV0 := fun nnn s =>
  ⟨decode_numBnnn nnn, _, exec_jpV0Nnn nnn s, indexedTarget_toNat nnn _, s.finishAt_frame _⟩

/-- Settles O22: each of the four is the skip rule on its own comparison. -/
theorem registerSkipsAdvanceByFourOrTwo : Obligations.RegisterSkipsAdvanceByFourOrTwo := by
  intro x y kk s
  refine ⟨decode_num3xkk x kk, decode_num4xkk x kk, by rw [decode_num5xy, if_pos rfl], by rw [decode_num9xy, if_pos rfl],
    fun d hd => ⟨by rw [decode_num5xy, if_neg hd], by rw [decode_num9xy, if_neg hd]⟩, fun p hp => ?_⟩
  suffices hskip : exec p.1 s = .next (s.skipIf p.2) from ⟨_, hskip, s.skipIf_pc_toNat p.2, s.finishAt_frame _⟩
  simp only [List.mem_cons, List.not_mem_nil, or_false] at hp
  obtain rfl | rfl | rfl | rfl := hp
  · exact exec_seVxKk x kk s
  · exact exec_sneVxKk x kk s
  · exact exec_seVxVy x y s
  · exact exec_sneVxVy x y s

end Sys2Proof.Machine
end

section
/-! The two instructions of 43_memory_access.md that write I and no flag (R94, R96): the words they are decoded from, the
value each writes, and what a write of I followed by `advance` leaves unchanged. -/

namespace Sys2Proof.Machine

/-! ### Decoding the words Annn and Fx29 -/

theorem numX_eq_packX (op : BitVec 4) (x : Reg) (low : BitVec 8) : numX op.toNat x low.toNat = packX op x low :=
  numXkk_eq_packXkk op x low

theorem decode_numAnnn (nnn : Address) : decode (numNnn 10 nnn) = .ok (.ldINnn nnn) := by
  rw [show numNnn 10 nnn = packNnn 10 nnn from numNnn_eq_packNnn 10 nnn]
  simp [decode]

/-- A word of major opcode F is decoded by its low byte. -/
theorem decode_numFx (x : Reg) (low : BitVec 8) : decode (numX 15 x low.toNat) = decodeF (packX 15 x low) := by
  rw [show numX 15 x low.toNat = packX 15 x low from numX_eq_packX 15 x low]
  simp [decode]

theorem decode_numFx29 (x : Reg) : decode (numX 15 x 0x29) = .ok (.ldFVx x) := by
  rw [show decode (numX 15 x 0x29) = decodeF (packX 15 x 0x29) from decode_numFx x 0x29]
  simp [decodeF]

/-! ### The end of the execute phase: I written, then `advance` -/

theorem exec_ldINnn (nnn : Address) (s : State) : exec (.ldINnn nnn) s = .next (s.setI (zextAddress nnn)).advance := rfl

theorem exec_ldFVx (x : Reg) (s : State) : exec (.ldFVx x) s = .next (s.setI (glyphAddress (s.getV x))).advance := rfl

theorem State.setI_advance_i (s : State) (w : Word) : (s.setI w).advance.i = w := by simp

/-- The frame of an instruction that writes I: every other field and every byte of memory stays, PC moves to the next
word. -/
theorem State.setI_advance_frame (s : State) (w : Word) :
    (s.setI w).advance = { s with i := (s.setI w).advance.i, pc := s.pc + 2, status := some .executed } ∧
    ∀ a, (s.setI w).advance.mem.read a = s.mem.read a :=
  ⟨rfl, fun _ => rfl⟩

/-- The largest glyph address, of V[x] = 255, is 0x54B (R96), so the sixteen bits of I do not wrap. -/
theorem glyphAddress_toNat (b : Byte) : (glyphAddress b).toNat = b.toNat * 5 + 0x50 := by
  rw [glyphAddress, BitVec.toNat_ofNat, Config.glyphBytes, Config.fontBase]; omega

/-! ### The obligations -/

/-- Settles O23: Annn is the write of the zero-extended `nnn` to I. -/
theorem loadIndexWritesNnn : Obligations.LoadIndexWritesNnn := by
  intro nnn s
  refine ⟨decode_numAnnn nnn, _, exec_ldINnn nnn s, ?_, s.setI_advance_frame _⟩
  rw [State.setI_advance_i, zextAddress_toNat]

/-- Settles O25: Fx29 is the write to I of an address that is too small to wrap, for every byte V[x] can hold. -/
theorem glyphAddressUsesAllEightBits : Obligations.GlyphAddressUsesAllEightBits := by
  intro x s
  refine ⟨decode_numFx29 x, _, exec_ldFVx x s, ?_, s.setI_advance_frame _⟩
  rw [State.setI_advance_i, glyphAddress_toNat]

end Sys2Proof.Machine
end

section
/-! The read of the delay timer (44_timers_keypad.md R100): the word Fx07 is decoded from, the execute phase as the write of
one register, and the step, whose tick (R66) counts DT down after the read. -/

namespace Sys2Proof.Machine

theorem decode_numFx07 (x : Reg) : decode (numX 15 x 0x07) = .ok (.ldVxDt x) := by
  rw [show decode (numX 15 x 0x07) = decodeF (packX 15 x 0x07) from decode_numFx x 0x07]
  simp [decodeF]

theorem exec_ldVxDt (x : Reg) (s : State) : exec (.ldVxDt x) s = .next (s.setV x s.dt).advance := rfl

/-- A step of a running engine, from the decoding of the fetched word and the execute phase of its instruction. -/
theorem step_of_decode_exec {s t : State} {i : Instr} (h : s.running) (hp : s.pc.toNat ≤ 0xFFE)
    (hi : decode (s.mem.readWord s.pc.toNat) = .ok i) (ht : exec i s.fetched = .next t) : step s = .next t.tick := by
  obtain ⟨hreset, hhalt⟩ := h
  rw [step_fetched hreset hhalt hp]
  exact decodeExecute_next (by rw [State.fetched_ir, hi]) ht

/-- Sampling the keypad and fetching do not move the delay timer: the execute phase reads what the step found. -/
@[simp] theorem State.fetched_dt (s : State) : s.fetched.dt = s.dt := by
  rw [State.fetched_eq]

/-- The tick after a completed execute phase (R66). -/
theorem State.tick_dt_toNat_of_executed {s : State} (h : s.status = some .executed) :
    s.tick.dt.toNat = s.dt.toNat - 1 := by
  rw [State.tick_dt, if_pos h, countDown_toNat]

/-- Settles O31: Fx07 is the write of DT to one register; the tick leaves the registers alone and counts down from the DT
that was read. -/
theorem delayTimerIsReadBeforeTheTick : Obligations.DelayTimerIsReadBeforeTheTick := by
  intro x s
  refine ⟨decode_numFx07 x, ⟨_, exec_ldVxDt x s, s.getV_setV_advance_same x _, s.setV_advance_frame x _⟩, ?_⟩
  intro hrun hp hword
  have hstep : step s = .next (s.fetched.setV x s.fetched.dt).advance.tick :=
    step_of_decode_exec hrun hp (by rw [hword, decode_numFx07]) (exec_ldVxDt x s.fetched)
  refine ⟨_, hstep, ?_, ?_⟩
  · rw [State.tick_getV, State.getV_setV_advance_same, State.fetched_dt]
  · rw [State.tick_dt_toNat_of_executed (State.advance_status _), State.advance_dt, State.setV_dt, State.fetched_dt]

end Sys2Proof.Machine
end

section
/-! The clear of the framebuffer (45_sprite_drawing.md R108): the word 00E0, and an execute phase that ends in one write of
the framebuffer and of REDRAW with it. -/

namespace Sys2Proof.Machine

theorem decode_num00E0 : decode 0x00E0 = .ok .cls := by decide

theorem exec_cls (s : State) : exec .cls s = .next (s.setFb FrameBuffer.clear).advance := rfl

theorem State.setFb_advance_cell (s : State) (f : FrameBuffer) (k : Nat) : (s.setFb f).advance.fb.cell k = f.cell k := by
  rw [State.advance_fb, State.setFb_fb]

theorem State.setFb_advance_redraw (s : State) (f : FrameBuffer) : (s.setFb f).advance.redraw = true := by
  rw [State.advance_redraw, State.setFb_redraw]

/-- The frame of a framebuffer write, which sets REDRAW (R67): every register, V[15] too, every other field and every
byte of memory stays, PC moves to the next word. -/
theorem State.setFb_advance_frame (s : State) (f : FrameBuffer) :
    (s.setFb f).advance =
      { s with fb := (s.setFb f).advance.fb, redraw := true, pc := s.pc + 2, status := some .executed } ∧
    ∀ a, (s.setFb f).advance.mem.read a = s.mem.read a :=
  ⟨rfl, fun _ => rfl⟩

/-- Settles O35: 00E0 is the write of the framebuffer that holds 0 in every cell. -/
theorem clearZeroesEveryCellAndSetsRedraw : Obligations.ClearZeroesEveryCellAndSetsRedraw := by
  intro s
  refine ⟨decode_num00E0, _, exec_cls s, fun k _ => ?_, s.setFb_advance_redraw _, s.setFb_advance_frame _⟩
  rw [State.setFb_advance_cell, FrameBuffer.cell_clear]

end Sys2Proof.Machine
end

section
/-! Encoding and decoding (30_encoding.md): the decoder undoes the encoder, the encoder undoes the decoder, and the words
without a meaning are those of R51. The opcode map of R50 is then compared with the decoder through the encoder: a word that
a row covers is the encoding of an instruction of that row. -/

namespace Sys2Proof

open Machine

/-! ### The decoder undoes the encoder -/

/-- The split is by the table that reads the word: the two fixed words, the low digit of major opcode 8, the low byte of
major opcodes E and F, and the major opcode alone for the rest. -/
theorem decode_encode (i : Instr) : decode (encode i) = .ok i := by
  cases i
  case cls | ret => decide
  case ldVxVy | orVxVy | andVxVy | xorVxVy | addVxVy | subVxVy | shrVx | subnVxVy | shlVx =>
    simp [encode, decode, decode8]
  case skpVx | sknpVx => simp [encode, decode, decodeE]
  case ldVxDt | ldVxK | ldDtVx | ldStVx | addIVx | ldFVx | bcdVx | stmVx | ldmVx =>
    simp [encode, decode, decodeF]
  all_goals simp [encode, decode]

/-- Settles O2: the fields are read back as they were packed. -/
theorem decodeOfEncodeIsTheInstruction : Obligations.DecodeOfEncodeIsTheInstruction := decode_encode

/-! ### A word packed again from its own fields -/

theorem packNnn_fields (w : Word) : packNnn (opField w) (nnnField w) = w :=
  BitVec.eq_of_toNat_eq (by rw [packNnn_toNat, opField_toNat, nnnField_toNat]; omega)

theorem packXkk_fields (w : Word) : packXkk (opField w) (xField w) (kkField w) = w :=
  BitVec.eq_of_toNat_eq (by rw [packXkk_toNat, opField_toNat, xField_val, kkField_toNat]; omega)

theorem packX_fields (w : Word) : packX (opField w) (xField w) (kkField w) = w := packXkk_fields w

theorem packXy_fields (w : Word) : packXy (opField w) (xField w) (yField w) (minorField w) = w :=
  BitVec.eq_of_toNat_eq (by
    rw [packXy_toNat, opField_toNat, xField_val, yField_val, minorField_toNat]; omega)

theorem packXyn_fields (w : Word) : packXyn (opField w) (xField w) (yField w) (nField w) = w :=
  packXy_fields w

/-! ### The encoder undoes the decoder -/

theorem encode_of_decode0 {w : Word} {i : Instr} (h : decode0 w = .ok i) : encode i = w := by
  unfold decode0 at h
  split_ifs at h with hcls hret <;> cases h
  · exact hcls.symm
  · exact hret.symm

theorem encode_of_decode8 {w : Word} {i : Instr} (hop : opField w = 8#4) (h : decode8 w = .ok i) : encode i = w := by
  have hpack := packXy_fields w
  unfold decode8 at h
  split at h <;> cases h <;> next hminor => rwa [hop, hminor] at hpack

theorem encode_of_decodeE {w : Word} {i : Instr} (hop : opField w = 14#4) (h : decodeE w = .ok i) : encode i = w := by
  have hpack := packX_fields w
  unfold decodeE at h
  split at h <;> cases h <;> next hlow => rwa [hop, hlow] at hpack

theorem encode_of_decodeF {w : Word} {i : Instr} (hop : opField w = 15#4) (h : decodeF w = .ok i) : encode i = w := by
  have hpack := packX_fields w
  unfold decodeF at h
  split at h <;> cases h <;> next hlow => rwa [hop, hlow] at hpack

/-- A word is packed from its fields, and the decoder reads its instruction's operands from the same fields. -/
theorem encode_of_decode {w : Word} {i : Instr} (h : decode w = .ok i) : encode i = w := by
  have hnnn := packNnn_fields w
  have hxkk := packXkk_fields w
  have hxy := packXy_fields w
  have hxyn := packXyn_fields w
  unfold decode at h
  split at h
  case h_1 => exact encode_of_decode0 h
  case h_9 hop => exact encode_of_decode8 hop h
  case h_15 hop => exact encode_of_decodeE hop h
  case h_16 => exact encode_of_decodeF (by simp only [imp_false] at *; bv_omega) h
  case h_6 hop | h_10 hop =>
    split_ifs at h with hminor
    cases h
    rwa [hop, hminor] at hxy
  case h_2 hop | h_3 hop | h_11 hop | h_12 hop => cases h; rwa [hop] at hnnn
  case h_14 hop => cases h; rwa [hop] at hxyn
  all_goals next hop => cases h; rwa [hop] at hxkk

/-- Settles O3: a word is packed again from the fields its operands were read from. -/
theorem encodeOfDecodeIsTheWord : Obligations.EncodeOfDecodeIsTheWord := fun _ _ h => encode_of_decode h

/-! ### The opcode map (R50) -/

/-- The word of an instruction is covered by every row of its mnemonic. -/
theorem encode_fits_row : ∀ i, Laws.WordFitsRow.Statement i
  | .cls => Laws.WordFitsRow.cls
  | .ret => Laws.WordFitsRow.ret
  | .jpNnn _ => Laws.WordFitsRow.jpNnn _
  | .callNnn _ => Laws.WordFitsRow.callNnn _
  | .seVxKk _ _ => Laws.WordFitsRow.seVxKk _ _
  | .sneVxKk _ _ => Laws.WordFitsRow.sneVxKk _ _
  | .seVxVy _ _ => Laws.WordFitsRow.seVxVy _ _
  | .ldVxKk _ _ => Laws.WordFitsRow.ldVxKk _ _
  | .addVxKk _ _ => Laws.WordFitsRow.addVxKk _ _
  | .ldVxVy _ _ => Laws.WordFitsRow.ldVxVy _ _
  | .orVxVy _ _ => Laws.WordFitsRow.orVxVy _ _
  | .andVxVy _ _ => Laws.WordFitsRow.andVxVy _ _
  | .xorVxVy _ _ => Laws.WordFitsRow.xorVxVy _ _
  | .addVxVy _ _ => Laws.WordFitsRow.addVxVy _ _
  | .subVxVy _ _ => Laws.WordFitsRow.subVxVy _ _
  | .shrVx _ _ => Laws.WordFitsRow.shrVx _ _
  | .subnVxVy _ _ => Laws.WordFitsRow.subnVxVy _ _
  | .shlVx _ _ => Laws.WordFitsRow.shlVx _ _
  | .sneVxVy _ _ => Laws.WordFitsRow.sneVxVy _ _
  | .ldINnn _ => Laws.WordFitsRow.ldINnn _
  | .jpV0Nnn _ => Laws.WordFitsRow.jpV0Nnn _
  | .rndVxKk _ _ => Laws.WordFitsRow.rndVxKk _ _
  | .drwVxVyN _ _ _ => Laws.WordFitsRow.drwVxVyN _ _ _
  | .skpVx _ => Laws.WordFitsRow.skpVx _
  | .sknpVx _ => Laws.WordFitsRow.sknpVx _
  | .ldVxDt _ => Laws.WordFitsRow.ldVxDt _
  | .ldVxK _ => Laws.WordFitsRow.ldVxK _
  | .ldDtVx _ => Laws.WordFitsRow.ldDtVx _
  | .ldStVx _ => Laws.WordFitsRow.ldStVx _
  | .addIVx _ => Laws.WordFitsRow.addIVx _
  | .ldFVx _ => Laws.WordFitsRow.ldFVx _
  | .bcdVx _ => Laws.WordFitsRow.bcdVx _
  | .stmVx _ => Laws.WordFitsRow.stmVx _
  | .ldmVx _ => Laws.WordFitsRow.ldmVx _

theorem packNnn_of_mask {w : Word} {op : BitVec 4} (h : w &&& 0xF000#16 = packNnn op 0) :
    packNnn op (nnnField w) = w := by
  rw [← packNnn_fields w, packNnn_mask] at h
  have hop : opField w = op := by simpa using congrArg opField h
  rw [← hop, packNnn_fields]

theorem packXkk_of_mask {w : Word} {op : BitVec 4} (h : w &&& 0xF000#16 = packXkk op 0 0) :
    packXkk op (xField w) (kkField w) = w := by
  rw [← packXkk_fields w, packXkk_mask] at h
  have hop : opField w = op := by simpa using congrArg opField h
  rw [← hop, packXkk_fields]

theorem packXyn_of_mask {w : Word} {op : BitVec 4} (h : w &&& 0xF000#16 = packXkk op 0 0) :
    packXyn op (xField w) (yField w) (nField w) = w := by
  rw [← packXyn_fields w, packXyn_mask] at h
  have hop : opField w = op := by simpa using congrArg opField h
  rw [← hop, packXyn_fields]

theorem packXy_of_mask {w : Word} {op d : BitVec 4} (h : w &&& 0xF00F#16 = packXy op 0 0 d) :
    packXy op (xField w) (yField w) d = w := by
  rw [← packXy_fields w, packXy_mask] at h
  have hop : opField w = op := by simpa using congrArg opField h
  have hminor : minorField w = d := by simpa using congrArg minorField h
  rw [← hop, ← hminor, packXy_fields]

theorem packX_of_mask {w : Word} {op : BitVec 4} {low : BitVec 8} (h : w &&& 0xF0FF#16 = packX op 0 low) :
    packX op (xField w) low = w := by
  rw [← packX_fields w, packX_mask] at h
  have hop : opField w = op := by simpa using congrArg opField h
  have hlow : kkField w = low := by simpa using congrArg kkField h
  rw [← hop, ← hlow, packX_fields]

/-- Every word a row covers is the encoding of an instruction of that row, row by row. -/
theorem row_word_is_encoding : ∀ r ∈ opcodeRows, ∀ w : Word, w &&& r.mask = r.value →
    ∃ i, encode i = w ∧ i.mnemonic = r.mnemonic := by
  simp only [opcodeRows, List.cons_append, List.nil_append, List.forall_mem_cons]
  exact ⟨fun w h => ⟨.cls, h.symm.trans (BitVec.and_allOnes (x := w)), rfl⟩,
    fun w h => ⟨.ret, h.symm.trans (BitVec.and_allOnes (x := w)), rfl⟩,
    fun _ h => ⟨.jpNnn _, packNnn_of_mask h, rfl⟩,
    fun _ h => ⟨.callNnn _, packNnn_of_mask h, rfl⟩,
    fun _ h => ⟨.seVxKk _ _, packXkk_of_mask h, rfl⟩,
    fun _ h => ⟨.sneVxKk _ _, packXkk_of_mask h, rfl⟩,
    fun _ h => ⟨.seVxVy _ _, packXy_of_mask h, rfl⟩,
    fun _ h => ⟨.ldVxKk _ _, packXkk_of_mask h, rfl⟩,
    fun _ h => ⟨.addVxKk _ _, packXkk_of_mask h, rfl⟩,
    fun _ h => ⟨.ldVxVy _ _, packXy_of_mask h, rfl⟩,
    fun _ h => ⟨.orVxVy _ _, packXy_of_mask h, rfl⟩,
    fun _ h => ⟨.andVxVy _ _, packXy_of_mask h, rfl⟩,
    fun _ h => ⟨.xorVxVy _ _, packXy_of_mask h, rfl⟩,
    fun _ h => ⟨.addVxVy _ _, packXy_of_mask h, rfl⟩,
    fun _ h => ⟨.subVxVy _ _, packXy_of_mask h, rfl⟩,
    fun _ h => ⟨.shrVx _ _, packXy_of_mask h, rfl⟩,
    fun _ h => ⟨.subnVxVy _ _, packXy_of_mask h, rfl⟩,
    fun _ h => ⟨.shlVx _ _, packXy_of_mask h, rfl⟩,
    fun _ h => ⟨.sneVxVy _ _, packXy_of_mask h, rfl⟩,
    fun _ h => ⟨.ldINnn _, packNnn_of_mask h, rfl⟩,
    fun _ h => ⟨.jpV0Nnn _, packNnn_of_mask h, rfl⟩,
    fun _ h => ⟨.rndVxKk _ _, packXkk_of_mask h, rfl⟩,
    fun _ h => ⟨.drwVxVyN _ _ _, packXyn_of_mask h, rfl⟩,
    fun _ h => ⟨.skpVx _, packX_of_mask h, rfl⟩,
    fun _ h => ⟨.sknpVx _, packX_of_mask h, rfl⟩,
    fun _ h => ⟨.ldVxDt _, packX_of_mask h, rfl⟩,
    fun _ h => ⟨.ldVxK _, packX_of_mask h, rfl⟩,
    fun _ h => ⟨.ldDtVx _, packX_of_mask h, rfl⟩,
    fun _ h => ⟨.ldStVx _, packX_of_mask h, rfl⟩,
    fun _ h => ⟨.addIVx _, packX_of_mask h, rfl⟩,
    fun _ h => ⟨.ldFVx _, packX_of_mask h, rfl⟩,
    fun _ h => ⟨.bcdVx _, packX_of_mask h, rfl⟩,
    fun _ h => ⟨.stmVx _, packX_of_mask h, rfl⟩,
    fun _ h => ⟨.ldmVx _, packX_of_mask h, rfl⟩,
    fun _ h => absurd h List.not_mem_nil⟩

/-- Settles O4: a row covers a word exactly when the word is the encoding of an instruction of that row, which is what it
decodes to. -/
theorem decodeAgreesWithTheOpcodeMap : Obligations.DecodeAgreesWithTheOpcodeMap := by
  intro r hr w
  constructor
  · intro h
    obtain ⟨i, rfl, hname⟩ := row_word_is_encoding r hr w h
    exact ⟨i, decode_encode i, hname⟩
  · rintro ⟨i, hdecode, hname⟩
    rw [← encode_of_decode hdecode]
    simpa [OpcodeRow.covers] using encode_fits_row i r hr hname.symm

/-! ### Rows that do not overlap (R49) -/

/-- No two rows agree on the bits that both of them fix. -/
theorem rows_differ_on_common_bits : ∀ r ∈ opcodeRows, ∀ r' ∈ opcodeRows,
    r.value &&& r'.mask = r'.value &&& r.mask → r = r' := by decide

theorem row_unique {w : Word} {r r' : OpcodeRow} (hr : r ∈ opcodeRows) (hr' : r' ∈ opcodeRows)
    (h : r.covers w = true) (h' : r'.covers w = true) : r = r' := by
  simp only [OpcodeRow.covers, beq_iff_eq] at h h'
  refine rows_differ_on_common_bits r hr r' hr' ?_
  rw [← h, ← h', BitVec.and_assoc, BitVec.and_assoc, BitVec.and_comm r.mask]

theorem decode_num8xy6 (x y : Reg) : decode (numXy 8 x y 6) = .ok (.shrVx x y) := by
  rw [decode_num8xy]; simp [decode8, regBits]

theorem decode_num8xyE (x y : Reg) : decode (numXy 8 x y 14) = .ok (.shlVx x y) := by
  rw [decode_num8xy]; simp [decode8, regBits]

/-- Settles O5: two rows differ on bits both fix, and the execute phase of 8xy6 and 8xyE does not look at `y`. -/
theorem rowsNeverOverlapAndShiftsIgnoreY : Obligations.RowsNeverOverlapAndShiftsIgnoreY := by
  refine ⟨fun w r hr r' hr' h h' => row_unique hr hr' h h', fun x y y' s d hd => ?_⟩
  obtain rfl | rfl : d = 6 ∨ d = 14 := by simpa using hd
  · exact ⟨_, _, decode_num8xy6 x y, decode_num8xy6 x y', rfl, rfl⟩
  · exact ⟨_, _, decode_num8xyE x y, decode_num8xyE x y', rfl, rfl⟩

/-! ### The unknown opcodes (R51), by major opcode -/

theorem decode0_error_iff (w : Word) :
    decode0 w = .error (.unknownOpcode w) ↔ w ≠ 0x00E0 ∧ w ≠ 0x00EE := by
  unfold decode0
  split_ifs <;> simp_all

theorem decode8_error_iff (w : Word) :
    decode8 w = .error (.unknownOpcode w) ↔ w.toNat % 16 ∈ [8, 9, 10, 11, 12, 13, 15] := by
  rw [← minorField_toNat]
  unfold decode8
  split
  case h_10 => simp only [imp_false, List.mem_cons, List.not_mem_nil, or_false, true_iff] at *; bv_omega
  all_goals next hminor => simp [hminor]

theorem decodeE_error_iff (w : Word) :
    decodeE w = .error (.unknownOpcode w) ↔ w.toNat % 256 ∉ [0x9E, 0xA1] := by
  rw [← kkField_toNat]
  unfold decodeE
  split
  case h_3 => simp only [imp_false, List.mem_cons, List.not_mem_nil, or_false, true_iff] at *; bv_omega
  all_goals next hlow => simp [hlow]

theorem decodeF_error_iff (w : Word) :
    decodeF w = .error (.unknownOpcode w) ↔
      w.toNat % 256 ∉ [0x07, 0x0A, 0x15, 0x18, 0x1E, 0x29, 0x33, 0x55, 0x65] := by
  rw [← kkField_toNat]
  unfold decodeF
  split
  case h_10 => simp only [imp_false, List.mem_cons, List.not_mem_nil, or_false, true_iff] at *; bv_omega
  all_goals next hlow => simp [hlow]

theorem minorField_eq_zero (w : Word) : minorField w = 0#4 ↔ w.toNat % 16 = 0 := by
  rw [← minorField_toNat, ← BitVec.toNat_inj]; rfl

/-- Settles O6: each table of the decoder answers for its own major opcode. -/
theorem unknownWordsAreTheUnlistedOnes : Obligations.UnknownWordsAreTheUnlistedOnes := by
  intro w
  rw [← opField_toNat]
  unfold decode
  split
  case h_1 hop => rw [decode0_error_iff]; simp [hop]
  case h_6 hop | h_10 hop => simp [hop, minorField_eq_zero]
  case h_9 hop => rw [decode8_error_iff]; simp [hop]
  case h_15 hop => rw [decodeE_error_iff]; simp [hop]
  case h_16 =>
    have hop : opField w = 15#4 := by simp only [imp_false] at *; bv_omega
    rw [decodeF_error_iff]; simp [hop]
  all_goals next hop => simp [hop]

/-- Settles O1: fourteen closed words, each decoded. -/
theorem specWordsDecodeToTheirInstructions : Obligations.SpecWordsDecodeToTheirInstructions := by
  unfold Obligations.SpecWordsDecodeToTheirInstructions
  decide

end Sys2Proof
end

section
/-! What an execute phase may write, said once for every instruction: the registers, the stack, memory, the framebuffer, the
timers and I (10_state.md section 5, 41_arithmetic.md section 3), and where PC goes (R13). -/

namespace Sys2Proof.Machine

/-! ### Fields kept by the stack, the block load and the draw of a random byte -/

/-- A pop that answers reads the entry below SP and moves SP alone. -/
theorem State.pop_eq_some {s t : State} {w : Word} (h : s.pop = some (w, t)) :
    ∃ k : Fin 16, s.sp.val = k.val + 1 ∧ w = s.getStack k ∧ t = { s with sp := t.sp } := by
  have hlive : s.sp.val ≠ 0 := fun h0 => by simp [s.pop_eq_none.2 h0] at h
  obtain ⟨u, hu, hframe, -⟩ := s.pop_of_live ⟨s.sp.val - 1, by omega⟩ (by simp; omega)
  cases hu.symm.trans h
  exact ⟨_, by simp; omega, rfl, hframe⟩

/-- A push that answers had room, and moves SP and the stack alone. -/
theorem State.push_spec {s t : State} {w : Word} (h : s.push w = some t) :
    t = { s with stack := t.stack, sp := t.sp } ∧ ∀ k, t.getStack k = w ∨ t.getStack k = s.getStack k := by
  have hroom : s.sp.val ≠ 16 := fun h0 => by simp [(s.push_eq_none w).2 h0] at h
  obtain ⟨hframe, -, hentry⟩ := s.push_eq_some h ⟨s.sp.val, by omega⟩ rfl
  refine ⟨hframe, fun k => ?_⟩
  rw [hentry]
  split
  · exact .inl rfl
  · exact .inr rfl

theorem State.takeRnd_frame (s : State) :
    s.takeRnd = { s with rndIn := s.takeRnd.rndIn, draws := s.takeRnd.draws } := by
  unfold State.takeRnd
  split <;> rfl

/-! ### What each instruction may write -/

/-- The spaces the execute phase of `i` may write, going from `s` to `t`. Each is as before unless `i` is named; an
instruction that leaves a space alone by definition leaves its field out. -/
structure Effect (i : Instr) (s t : State) : Prop where
  v : ∀ r, ¬ writesV i r → t.getV r = s.getV r := by exact fun _ _ => rfl
  stack : t.stack ≠ s.stack → ∃ nnn, i = .callNnn nnn := by exact fun h => absurd rfl h
  mem : t.mem ≠ s.mem → ∃ x, i = .bcdVx x ∨ i = .stmVx x := by exact fun h => absurd rfl h
  fb : t.fb ≠ s.fb → drawsOnScreen i := by exact fun h => absurd rfl h
  dt : t.dt ≠ s.dt → ∃ x, i = .ldDtVx x := by exact fun h => absurd rfl h
  st : t.st ≠ s.st → ∃ x, i = .ldStVx x := by exact fun h => absurd rfl h
  i : t.i ≠ s.i → (∃ nnn, i = .ldINnn nnn) ∨ ∃ x, i = .addIVx x ∨ i = .ldFVx x ∨ i = .stmVx x ∨ i = .ldmVx x := by
    exact fun h => absurd rfl h

theorem Effect.raise (i : Instr) (s : State) (c : FaultCause) : Effect i s (s.raise c) := {}

/-- The registers an instruction writes once it has written V[15] and then V[x]. -/
theorem State.getV_setFlag_setV_of_ne (s : State) {x r : Reg} (f b : Byte) (h : ¬ (r = 15 ∨ r = x)) :
    ((s.setV VF f).setV x b).getV r = s.getV r := by
  obtain ⟨hflag, hx⟩ := not_or.1 h
  rw [State.setV_getV, if_neg hx, State.setV_getV, if_neg hflag]

theorem exec_effect {i : Instr} {s t : State} (h : exec i s = .next t) : Effect i s t := by
  cases i
  case cls => cases h; exact { fb := fun _ => .inl rfl }
  case ret =>
    simp only [exec, execRet] at h
    split at h <;> cases h
    · exact .raise _ s _
    · next hpop =>
      obtain ⟨-, -, -, hframe⟩ := State.pop_eq_some hpop
      rw [hframe]
      exact {}
  case callNnn nnn =>
    simp only [exec, execCallNnn] at h
    split at h <;> cases h
    · exact .raise _ s _
    · next hpush =>
      rw [(State.push_spec hpush).1]
      exact { stack := fun _ => ⟨nnn, rfl⟩ }
  case jpNnn | seVxKk | sneVxKk | seVxVy | sneVxVy | jpV0Nnn => cases h; exact {}
  case ldVxKk | addVxKk | ldVxVy | orVxVy | andVxVy | xorVxVy | ldVxDt =>
    cases h
    exact { v := fun r hr => State.getV_setV_advance_of_ne _ _ hr }
  case addVxVy | subVxVy | shrVx | subnVxVy | shlVx =>
    cases h
    exact { v := fun r hr => s.getV_setFlag_setV_of_ne _ _ hr }
  case rndVxKk x kk =>
    cases h
    rw [s.takeRnd_frame]
    exact { v := fun r hr => State.getV_setV_advance_of_ne _ _ hr }
  case ldINnn nnn => cases h; exact { i := fun _ => .inl ⟨nnn, rfl⟩ }
  case ldFVx x => cases h; exact { i := fun _ => .inr ⟨x, .inr (.inl rfl)⟩ }
  case addIVx x =>
    cases h
    exact { v := fun r hr => State.getV_setV_advance_of_ne _ _ hr, i := fun _ => .inr ⟨x, .inl rfl⟩ }
  case ldDtVx x => cases h; exact { dt := fun _ => ⟨x, rfl⟩ }
  case ldStVx x => cases h; exact { st := fun _ => ⟨x, rfl⟩ }
  case bcdVx x =>
    simp only [exec, execBcdVx] at h
    split at h <;> cases h
    · exact { mem := fun _ => ⟨x, .inl rfl⟩ }
    · exact .raise _ s _
  case stmVx x =>
    simp only [exec, execStmVx] at h
    split at h <;> cases h
    · exact { mem := fun _ => ⟨x, .inr rfl⟩, i := fun _ => .inr ⟨x, .inr (.inr (.inl rfl))⟩ }
    · exact .raise _ s _
  case ldmVx x =>
    simp only [exec, execLdmVx] at h
    obtain ⟨hframe, hload⟩ := s.loadBlock_spec (regsUpTo x)
    split at h <;> cases h
    · have hv : ∀ r, ¬ r ≤ x → (s.loadBlock (regsUpTo x)).getV r = s.getV r := fun r hr => by
        rw [hload, if_neg (mt (mem_regsUpTo x r).1 hr)]
      generalize s.loadBlock (regsUpTo x) = u at hframe hv
      rw [hframe] at hv ⊢
      exact { v := hv, i := fun _ => .inr ⟨x, .inr (.inr (.inr rfl))⟩ }
    · exact .raise _ s _
  case drwVxVyN x y n =>
    simp only [exec, execDrwVxVyN] at h
    split at h <;> cases h
    · exact { v := fun r hr => State.getV_setV_advance_of_ne (s.setFb _) _ hr, fb := fun _ => .inr ⟨x, y, n, rfl⟩ }
    · exact .raise _ s _
  case skpVx | sknpVx =>
    simp only [exec, execSkpVx, execSknpVx] at h
    split at h <;> cases h
    · exact .raise _ s _
    · exact {}
  case ldVxK x =>
    simp only [exec, execLdVxK] at h
    split at h <;> cases h
    · exact {}
    · exact { v := fun r hr => s.getV_setV_advance_of_ne _ hr }

/-- Settles O50: the first field of `Effect`. -/
theorem onlyTheListedRegistersAreWritten : Obligations.OnlyTheListedRegistersAreWritten :=
  fun _ _ _ h => (exec_effect h).v

/-- KEY and IR are inputs of the execute phase, written before it (R62, R63), at each of its three ends. -/
theorem exec_keeps_key_and_ir {i : Instr} {s t : State} (h : exec i s = .next t) : t.key = s.key ∧ t.ir = s.ir := by
  rcases exec_cases i s with ⟨c, -, hraise⟩ | ⟨-, -, -, hwait⟩ | ⟨-, u, hu, hdone⟩
  · cases hraise.symm.trans h; exact ⟨rfl, rfl⟩
  · cases hwait.symm.trans h; exact ⟨rfl, rfl⟩
  · cases hu.symm.trans h; exact ⟨hdone.key, hdone.ir⟩

/-- Settles O51: the other fields of `Effect`. -/
theorem onlyTheNamedInstructionsWriteEachSpace : Obligations.OnlyTheNamedInstructionsWriteEachSpace := by
  intro i s t h
  have heff := exec_effect h
  exact ⟨heff.stack, heff.mem, heff.fb, heff.dt, heff.st, heff.i, exec_keeps_key_and_ir h⟩

/-! ### Where PC goes -/

/-- The six instructions under the skip rule (R89). -/
def isSkip (i : Instr) : Prop :=
  (∃ x kk, i = .seVxKk x kk ∨ i = .sneVxKk x kk) ∨ (∃ x y, i = .seVxVy x y ∨ i = .sneVxVy x y) ∨
    ∃ x, i = .skpVx x ∨ i = .sknpVx x

/-- The values PC may take when `i` completes from `s` (R13, R85 to R89). -/
inductive Target (i : Instr) (s : State) : Word → Prop where
  | jump (nnn : Address) (h : i = .jpNnn nnn ∨ i = .callNnn nnn) : Target i s (zextAddress nnn)
  | indexed (nnn : Address) (h : i = .jpV0Nnn nnn) : Target i s (indexedTarget nnn (s.getV 0))
  | resume (k : Fin 16) (h : i = .ret) : Target i s (s.getStack k + 2)
  | line : Target i s (s.pc + 2)
  | skip (h : isSkip i) : Target i s (s.pc + 4)

theorem Target.skipIf {i : Instr} (h : isSkip i) (s : State) (c : Bool) : Target i s (s.skipIf c).pc := by
  cases c
  · exact .line
  · exact .skip h

theorem exec_target {i : Instr} {s t : State} (h : exec i s = .next t) (hdone : t.status = some .executed) :
    Target i s t.pc := by
  cases i
  case ret =>
    simp only [exec, execRet] at h
    split at h <;> cases h
    · cases hdone
    · next hpop =>
      obtain ⟨k, -, rfl, -⟩ := State.pop_eq_some hpop
      exact .resume k rfl
  case jpNnn nnn => cases h; exact .jump nnn (.inl rfl)
  case jpV0Nnn nnn => cases h; exact .indexed nnn rfl
  case callNnn nnn =>
    simp only [exec, execCallNnn] at h
    split at h <;> cases h
    · cases hdone
    · exact .jump nnn (.inr rfl)
  case seVxKk x kk => cases h; exact .skipIf (.inl ⟨x, kk, .inl rfl⟩) s _
  case sneVxKk x kk => cases h; exact .skipIf (.inl ⟨x, kk, .inr rfl⟩) s _
  case seVxVy x y => cases h; exact .skipIf (.inr (.inl ⟨x, y, .inl rfl⟩)) s _
  case sneVxVy x y => cases h; exact .skipIf (.inr (.inl ⟨x, y, .inr rfl⟩)) s _
  case skpVx x =>
    simp only [exec, execSkpVx] at h
    split at h <;> cases h
    · cases hdone
    · exact .skipIf (.inr (.inr ⟨x, .inl rfl⟩)) s _
  case sknpVx x =>
    simp only [exec, execSknpVx] at h
    split at h <;> cases h
    · cases hdone
    · exact .skipIf (.inr (.inr ⟨x, .inr rfl⟩)) s _
  case bcdVx | stmVx | drwVxVyN =>
    simp only [exec, execBcdVx, execStmVx, execDrwVxVyN] at h
    split at h <;> cases h
    · exact .line
    · cases hdone
  case ldmVx x =>
    simp only [exec, execLdmVx] at h
    split at h <;> cases h
    · rw [(s.loadBlock_spec (regsUpTo x)).1]
      exact .line
    · cases hdone
  case ldVxK =>
    simp only [exec, execLdVxK] at h
    split at h <;> cases h
    · cases hdone
    · exact .line
  case rndVxKk =>
    cases h
    rw [s.takeRnd_frame]
    exact .line
  all_goals cases h; exact .line

/-- Settles O52. -/
theorem onlyTransfersAndSkipsLeaveTheLine : Obligations.OnlyTransfersAndSkipsLeaveTheLine := by
  intro i s t h hdone
  have htarget := exec_target h hdone
  generalize t.pc = pc at htarget
  cases htarget with
  | jump nnn hi => exact .inl ⟨nnn, hi.imp_right .inl⟩
  | indexed nnn hi => exact .inl ⟨nnn, .inr (.inr hi)⟩
  | resume k hi => exact .inr (.inl hi)
  | line => exact .inr (.inr (.inl rfl))
  | skip hi => exact .inr (.inr (.inr ⟨rfl, hi⟩))

end Sys2Proof.Machine
end

section
/-! The instructions of 43_memory_access.md that move bytes (R97 to R99): what a stored block reads as, the execute phase of
each in and out of range (R32), and the round trip of a block store and a block load. -/

namespace Sys2Proof.Machine

/-! ### A stored block read back (R34), in a canonical memory -/

theorem Memory.read_writeBytes_inside (bs : List Byte) {m : Memory} (h : m.wf) {a : Nat} (ha : a + bs.length ≤ 4096)
    {j : Nat} (hj : j < bs.length) : (m.writeBytes a bs).read (a + j) = bs[j] := by
  rw [Memory.read_writeBytes bs h ha, dif_pos (by omega)]
  simp

theorem Memory.read_writeBytes_outside (bs : List Byte) {m : Memory} (h : m.wf) {a : Nat} (ha : a + bs.length ≤ 4096)
    {b : Nat} (hb : b < a ∨ a + bs.length ≤ b) : (m.writeBytes a bs).read b = m.read b := by
  rw [Memory.read_writeBytes bs h ha, dif_neg (by omega)]

/-! ### The execute phase in range -/

theorem exec_bcdVx (x : Reg) {s : State} (h : s.i.toNat + 2 ≤ 0xFFF) :
    exec (.bcdVx x) s = .next (s.setMem (s.mem.writeBytes s.i.toNat (decimalDigits (s.getV x)))).advance :=
  if_pos ((s.dataInRange_iff 3).2 (by omega))

theorem exec_stmVx (x : Reg) {s : State} (h : s.i.toNat + x.val ≤ 0xFFF) :
    exec (.stmVx x) s =
      .next ((s.setMem (s.mem.writeBytes s.i.toNat (s.block x))).setI (s.i + BitVec.ofNat 16 (x.val + 1))).advance :=
  if_pos ((s.dataInRange_iff (x.val + 1)).2 (by omega))

theorem exec_ldmVx (x : Reg) {s : State} (h : s.i.toNat + x.val ≤ 0xFFF) :
    exec (.ldmVx x) s =
      .next ((s.loadBlock (regsUpTo x)).setI ((s.loadBlock (regsUpTo x)).i + BitVec.ofNat 16 (x.val + 1))).advance :=
  if_pos ((s.dataInRange_iff (x.val + 1)).2 (by omega))

/-! ### The execute phase out of range (R32, D7) -/

theorem State.dataInRange_eq_false {s : State} {n : Nat} (hn : n > 0) (h : s.i.toNat + n - 1 > 0xFFF) :
    ¬ s.dataInRange n = true := by
  rw [s.dataInRange_iff]; omega

theorem exec_bcdVx_fault (x : Reg) {s : State} (h : s.i.toNat + 2 > 0xFFF) :
    exec (.bcdVx x) s = .next (s.raise .dataOutOfRange) :=
  if_neg (State.dataInRange_eq_false (n := 3) (by omega) h)

theorem exec_stmVx_fault (x : Reg) {s : State} (h : s.i.toNat + x.val > 0xFFF) :
    exec (.stmVx x) s = .next (s.raise .dataOutOfRange) :=
  if_neg (State.dataInRange_eq_false (n := x.val + 1) (by omega) h)

theorem exec_ldmVx_fault (x : Reg) {s : State} (h : s.i.toNat + x.val > 0xFFF) :
    exec (.ldmVx x) s = .next (s.raise .dataOutOfRange) :=
  if_neg (State.dataInRange_eq_false (n := x.val + 1) (by omega) h)

theorem exec_drwVxVyN_fault (x y : Reg) {n : Fin 16} {s : State} (hn : n.val > 0) (h : s.i.toNat + n.val - 1 > 0xFFF) :
    exec (.drwVxVyN x y n) s = .next (s.raise .dataOutOfRange) :=
  if_neg (State.dataInRange_eq_false hn h)

/-- Settles O30: each of the four is `raise` where its range check fails. -/
theorem dataAccessAboveFffFaultsWhole : Obligations.DataAccessAboveFffFaultsWhole := by
  rintro x y n s t rfl
  exact ⟨exec_bcdVx_fault x, fun h => ⟨exec_stmVx_fault x h, exec_ldmVx_fault x h⟩, exec_drwVxVyN_fault x y⟩

/-! ### The decimal digits (R97) -/

@[simp] theorem decimalDigits_length (b : Byte) : (decimalDigits b).length = 3 := rfl

theorem decimalDigits_toNat (b : Byte) :
    ((decimalDigits b)[0]'(by simp)).toNat = b.toNat / 100 ∧
    ((decimalDigits b)[1]'(by simp)).toNat = b.toNat / 10 % 10 ∧
    ((decimalDigits b)[2]'(by simp)).toNat = b.toNat % 10 := by
  simp only [decimalDigits, List.getElem_cons_zero, List.getElem_cons_succ, BitVec.toNat_ofNat]
  omega

/-- Settles O26: Fx33 is the store of the three digits at I. -/
theorem bcdStoresTheDecimalDigits : Obligations.BcdStoresTheDecimalDigits := by
  intro x s hwf hrange
  refine ⟨_, exec_bcdVx x hrange, fun a ha => ?_⟩
  obtain rfl : s.i.toNat = a := ha
  have hfits : s.i.toNat + (decimalDigits (s.getV x)).length ≤ 4096 := by rw [decimalDigits_length]; omega
  have hread := fun j hj => congrArg BitVec.toNat (Memory.read_writeBytes_inside _ hwf hfits (j := j) hj)
  obtain ⟨hhundreds, htens, hones⟩ := decimalDigits_toNat (s.getV x)
  exact ⟨rfl, (hread 0 (by simp)).trans hhundreds, (hread 1 (by simp)).trans htens, (hread 2 (by simp)).trans hones,
    fun b hb => Memory.read_writeBytes_outside _ hwf hfits hb, rfl⟩

/-! ### The block store and the block load (R98, R99) -/

/-- I never wraps in a block transfer: the last byte moved lies in memory. -/
theorem index_after_block {i : Word} {x : Reg} (h : i.toNat + x.val ≤ 0xFFF) :
    (i + BitVec.ofNat 16 (x.val + 1)).toNat = i.toNat + x.val + 1 := by
  rw [BitVec.toNat_add, BitVec.toNat_ofNat]; omega

/-- Settles O27: Fx55 is the store of the block V[0] to V[x] at I, then the move of I. -/
theorem blockStoreWritesV0ToVx : Obligations.BlockStoreWritesV0ToVx := by
  intro x s hwf hrange
  refine ⟨_, exec_stmVx x hrange, index_after_block hrange, fun a ha => ?_⟩
  obtain rfl : s.i.toNat = a := ha
  have hfits : s.i.toNat + (s.block x).length ≤ 4096 := by rw [s.block_length]; omega
  refine ⟨rfl, fun r hr => ?_, fun b hb => ?_, rfl⟩
  · have hr' : r.val < (s.block x).length := by rw [s.block_length]; exact Nat.lt_succ_of_le hr
    exact (Memory.read_writeBytes_inside _ hwf hfits hr').trans (s.block_getElem x r hr')
  · exact Memory.read_writeBytes_outside _ hwf hfits (by rwa [s.block_length])

/-- Settles O28: Fx65 is the load of the registers up to x from I, then the move of I. -/
theorem blockLoadReadsV0ToVx : Obligations.BlockLoadReadsV0ToVx := by
  intro x s hrange
  obtain ⟨hframe, hload⟩ := s.loadBlock_spec (regsUpTo x)
  have hexec := exec_ldmVx x hrange
  generalize s.loadBlock (regsUpTo x) = u at hframe hload hexec
  rw [hframe] at hload hexec
  refine ⟨_, hexec, index_after_block hrange, fun r hr => ?_, fun r hr => ?_, rfl, fun _ => rfl⟩
  · exact (hload r).trans (if_pos ((mem_regsUpTo x r).2 hr))
  · exact (hload r).trans (if_neg (mt (mem_regsUpTo x r).1 hr))

/-- A register file is known by its registers. -/
theorem State.v_eq_of_getV {s t : State} (h : ∀ r, s.getV r = t.getV r) : s.v = t.v :=
  Vector.ext fun k hk => h ⟨k, hk⟩

/-- Settles O29: what Fx65 reads up to x is what Fx55 stored there, and it leaves the registers above x alone. -/
theorem blockStoreThenLoadRestoresRegisters : Obligations.BlockStoreThenLoadRestoresRegisters := by
  intro x nnn s hwf hi hrange
  have hnnn : s.i.toNat = nnn.toNat := by rw [hi]; exact zextAddress_toNat nnn
  obtain ⟨t, hstore, -, hmem⟩ := blockStoreWritesV0ToVx x s hwf (by rwa [hnnn])
  obtain ⟨-, hstored, -, hframe⟩ := hmem _ rfl
  obtain ⟨-, u, hindex, hui, hu, -⟩ := loadIndexWritesNnn nnn t
  obtain ⟨w, hload, hwi, hlow, hhigh, hw, -⟩ := blockLoadReadsV0ToVx x u (by rwa [hui])
  have hkeep : ∀ r, u.getV r = s.getV r := fun r => by rw [hu, hframe]; rfl
  refine ⟨t, u, w, hstore, hindex, hload, State.v_eq_of_getV fun r => ?_, by rw [hw, hu], by rw [hwi, hui]⟩
  by_cases hr : r ≤ x
  · rw [hlow r hr, hui, ← hnnn, ← hstored r hr, hu]; rfl
  · rw [hhigh r hr, hkeep]

end Sys2Proof.Machine
end

section
/-! The instructions that write the flag and a result (R79 to R83, R95) and the random byte (R84): V[15] first, then the
result from the state after that write (R72, decision D11). -/

namespace Sys2Proof.Machine

/-! ### Decoding the words 8xy4, 8xy5 and 8xy7 -/

theorem decode_num8xy4 (x y : Reg) : decode (numXy 8 x y 4) = .ok (.addVxVy x y) := by
  rw [decode_num8xy]; simp [decode8, regBits]

theorem decode_num8xy5 (x y : Reg) : decode (numXy 8 x y 5) = .ok (.subVxVy x y) := by
  rw [decode_num8xy]; simp [decode8, regBits]

theorem decode_num8xy7 (x y : Reg) : decode (numXy 8 x y 7) = .ok (.subnVxVy x y) := by
  rw [decode_num8xy]; simp [decode8, regBits]

/-! ### A flag write, then a register write, then `advance` -/

/-- The state in which an instruction that writes the flag `f` and then `b` to V[x] completes. -/
def State.flagThen (s : State) (f : Byte) (x : Reg) (b : Byte) : State := ((s.setV VF f).setV x b).advance

theorem State.flagThen_getV (s : State) (f : Byte) (x : Reg) (b : Byte) : (s.flagThen f x b).getV x = b :=
  State.getV_setV_advance_same _ x b

/-- The flag stays where the result does not overwrite it. -/
theorem State.flagThen_getV_flag (s : State) (f : Byte) {x : Reg} (b : Byte) (h : x ≠ 15) :
    (s.flagThen f x b).getV 15 = f := by
  rw [State.flagThen, State.getV_setV_advance_of_ne _ _ h.symm, State.setV_getV, if_pos rfl]

/-- The frame of an instruction that writes V[15] and V[x]. -/
theorem State.flagThen_frame (s : State) (f : Byte) (x : Reg) (b : Byte) :
    (∀ r, r ≠ x → r ≠ 15 → (s.flagThen f x b).getV r = s.getV r) ∧
    s.flagThen f x b = { s with v := (s.flagThen f x b).v, pc := s.pc + 2, status := some .executed } ∧
    ∀ a, (s.flagThen f x b).mem.read a = s.mem.read a :=
  ⟨fun _ hx hflag => s.getV_setFlag_setV_of_ne f b (not_or.2 ⟨hflag, hx⟩), rfl, fun _ => rfl⟩

/-- An operand read after the flag write. -/
theorem State.setV_flag_getV_toNat (s : State) (f : Byte) (r : Reg) :
    ((s.setV VF f).getV r).toNat = if r = 15 then f.toNat else (s.getV r).toNat := by
  rw [State.setV_getV]; split <;> rfl

theorem exec_addVxVy (x y : Reg) (s : State) : exec (.addVxVy x y) s =
    .next (s.flagThen (carryFlag (s.getV x) (s.getV y)) x (s.getV x + s.getV y)) := rfl

theorem exec_subVxVy (x y : Reg) (s : State) : exec (.subVxVy x y) s =
    let f := greaterFlag (s.getV x) (s.getV y)
    .next (s.flagThen f x ((s.setV VF f).getV x - (s.setV VF f).getV y)) := rfl

theorem exec_subnVxVy (x y : Reg) (s : State) : exec (.subnVxVy x y) s =
    let f := greaterFlag (s.getV y) (s.getV x)
    .next (s.flagThen f x ((s.setV VF f).getV y - (s.setV VF f).getV x)) := rfl

theorem exec_shrVx (x y : Reg) (s : State) : exec (.shrVx x y) s =
    let f := shiftRightFlag (s.getV x)
    .next (s.flagThen f x ((s.setV VF f).getV x >>> 1)) := rfl

theorem exec_shlVx (x y : Reg) (s : State) : exec (.shlVx x y) s =
    let f := shiftLeftFlag (s.getV x)
    .next (s.flagThen f x ((s.setV VF f).getV x <<< 1)) := rfl

theorem byte_sub_toNat (a b : Byte) : (a - b).toNat = (a.toNat + 256 - b.toNat) % 256 := by
  rw [BitVec.toNat_sub]; omega

/-! ### The obligations -/

/-- Settles O11: the sum is taken before the flag is written, and written after it. -/
theorem addWritesSumAndCarry : Obligations.AddWritesSumAndCarry := by
  intro x y s
  refine ⟨decode_num8xy4 x y, _, exec_addVxVy x y s, ?_, fun hx => ?_, s.flagThen_frame _ x _⟩
  · rw [State.flagThen_getV, BitVec.toNat_add]
  · rw [s.flagThen_getV_flag _ _ hx, carryFlag_toNat]

/-- Settles O12: the result is written last, from operands read after the flag write. -/
theorem subWritesStrictFlagThenDifference : Obligations.SubWritesStrictFlagThenDifference := by
  rintro x y s f rfl
  refine ⟨decode_num8xy5 x y, _, exec_subVxVy x y s, ?_, fun hx => ?_, s.flagThen_frame _ x _⟩
  · rw [State.flagThen_getV, byte_sub_toNat, State.setV_flag_getV_toNat, State.setV_flag_getV_toNat, greaterFlag_toNat]
  · rw [s.flagThen_getV_flag _ _ hx, greaterFlag_toNat]

/-- Settles O13: 8xy5 with the operands exchanged. -/
theorem subnWritesStrictFlagThenDifference : Obligations.SubnWritesStrictFlagThenDifference := by
  rintro x y s f rfl
  refine ⟨decode_num8xy7 x y, _, exec_subnVxVy x y s, ?_, fun hx => ?_, s.flagThen_frame _ x _⟩
  · rw [State.flagThen_getV, byte_sub_toNat, State.setV_flag_getV_toNat, State.setV_flag_getV_toNat, greaterFlag_toNat]
  · rw [s.flagThen_getV_flag _ _ hx, greaterFlag_toNat]

theorem byte_shiftRight_one_toNat (b : Byte) : (b >>> 1).toNat = b.toNat / 2 := by
  rw [BitVec.toNat_ushiftRight, Nat.shiftRight_eq_div_pow]

theorem byte_shiftLeft_one_toNat (b : Byte) : (b <<< 1).toNat = 2 * b.toNat % 256 := by
  rw [BitVec.toNat_shiftLeft, Nat.shiftLeft_eq]; omega

/-- Settles O14: the shift acts on V[x] after the flag write, so with x = 15 it acts on one bit. -/
theorem shiftsMoveOneBitIntoTheFlag : Obligations.ShiftsMoveOneBitIntoTheFlag := by
  intro x y s
  refine ⟨decode_num8xy6 x y, decode_num8xyE x y,
    ⟨_, exec_shrVx x y s, fun hx => ⟨?_, ?_⟩, ?_, s.flagThen_frame _ x _⟩,
    ⟨_, exec_shlVx x y s, fun hx => ⟨?_, ?_⟩, ?_, s.flagThen_frame _ x _⟩⟩
  · rw [State.flagThen_getV, byte_shiftRight_one_toNat, State.setV_flag_getV_toNat, if_neg hx]
  · rw [s.flagThen_getV_flag _ _ hx, shiftRightFlag_toNat]
  · rintro rfl
    rw [State.flagThen_getV, byte_shiftRight_one_toNat, State.setV_flag_getV_toNat, if_pos rfl, shiftRightFlag_toNat]
    omega
  · rw [State.flagThen_getV, byte_shiftLeft_one_toNat, State.setV_flag_getV_toNat, if_neg hx]
  · rw [s.flagThen_getV_flag _ _ hx, shiftLeftFlag_toNat]
  · rintro rfl
    rw [State.flagThen_getV, byte_shiftLeft_one_toNat, State.setV_flag_getV_toNat, if_pos rfl, shiftLeftFlag_toNat]
    omega

theorem exec_addIVx (x : Reg) (s : State) : exec (.addIVx x) s =
    let f := indexFlag s.i (s.getV x)
    .next ((s.setV VF f).setI (s.i + ((s.setV VF f).getV x).setWidth 16)).advance := rfl

/-- Settles O24: V[x] is read for the sum after the flag write, and no register but V[15] is written. -/
theorem addIndexFlagsThe12BitRange : Obligations.AddIndexFlagsThe12BitRange := by
  rintro x s f rfl
  refine ⟨_, exec_addIVx x s, ?_, ?_, fun r hr => ?_, rfl, fun _ => rfl⟩
  · rw [State.advance_getV, State.setI_getV, State.setV_getV, if_pos rfl, indexFlag_toNat]
  · rw [State.setI_advance_i, BitVec.toNat_add, BitVec.toNat_setWidth_of_le (by decide), State.setV_flag_getV_toNat,
      indexFlag_toNat]
  · rw [State.advance_getV, State.setI_getV, State.setV_getV, if_neg hr]

/-- Settles O15: the rows of R72 are the four statements above with one operand or both at V[15]. -/
theorem flagRegisterAsOperandFollowsWrittenOrder : Obligations.FlagRegisterAsOperandFollowsWrittenOrder := by
  rintro x y s hx hy a b f rfl rfl rfl
  refine ⟨?_, ?_, ?_, ?_, ?_, ?_, ?_, ?_, ?_, ?_⟩
  · obtain ⟨-, t, ht, hsum, -⟩ := addWritesSumAndCarry 15 y s
    exact ⟨t, ht, hsum⟩
  · obtain ⟨-, t, ht, hsum, hflag, -⟩ := addWritesSumAndCarry x 15 s
    exact ⟨t, ht, hsum, hflag hx⟩
  · obtain ⟨-, t, ht, hsum, -⟩ := addWritesSumAndCarry 15 15 s
    exact ⟨t, ht, by rw [hsum, two_mul]⟩
  · obtain ⟨-, t, ht, hdiff, -⟩ := subWritesStrictFlagThenDifference 15 y s _ rfl
    rw [if_pos rfl, if_neg hy] at hdiff
    exact ⟨t, ht, hdiff⟩
  · obtain ⟨-, t, ht, hdiff, hflag, -⟩ := subWritesStrictFlagThenDifference x 15 s _ rfl
    rw [if_neg hx, if_pos rfl] at hdiff
    exact ⟨t, ht, hdiff, hflag hx⟩
  · obtain ⟨-, t, ht, hdiff, -⟩ := subWritesStrictFlagThenDifference 15 15 s _ rfl
    exact ⟨t, ht, by simpa using hdiff⟩
  · obtain ⟨-, t, ht, hdiff, -⟩ := subnWritesStrictFlagThenDifference 15 y s _ rfl
    rw [if_neg hy, if_pos rfl] at hdiff
    exact ⟨t, ht, hdiff⟩
  · obtain ⟨-, t, ht, hdiff, hflag, -⟩ := subnWritesStrictFlagThenDifference x 15 s _ rfl
    rw [if_pos rfl, if_neg hx] at hdiff
    exact ⟨t, ht, hdiff, hflag hx⟩
  · obtain ⟨-, t, ht, hdiff, -⟩ := subnWritesStrictFlagThenDifference 15 15 s _ rfl
    exact ⟨t, ht, by simpa using hdiff⟩
  · obtain ⟨t, ht, hflag, hindex, -⟩ := addIndexFlagsThe12BitRange 15 s _ rfl
    rw [if_pos rfl] at hindex
    exact ⟨t, ht, hflag, hindex⟩

/-! ### The random byte (R84) -/

theorem exec_rndVxKk (x : Reg) (kk : Byte) (s : State) :
    exec (.rndVxKk x kk) s = .next (s.takeRnd.setV x (s.rndByte &&& kk)).advance := rfl

theorem State.rndByte_of_supplied {s : State} {b : Byte} {rest : List Byte} (h : s.rndIn = b :: rest) :
    s.rndByte = b := by
  simp [State.rndByte, h]

theorem State.takeRnd_of_supplied {s : State} {b : Byte} {rest : List Byte} (h : s.rndIn = b :: rest) :
    s.takeRnd = { s with rndIn := rest } := by
  simp [State.takeRnd, h]

/-- Settles O16: Cxkk is the write of the masked byte to one register, on the state that has taken the draw. -/
theorem randomByteIsMaskedByKk : Obligations.RandomByteIsMaskedByKk := by
  constructor
  · intro x kk b rest s hsupplied
    have hexec := exec_rndVxKk x kk s
    rw [State.takeRnd_of_supplied hsupplied, State.rndByte_of_supplied hsupplied] at hexec
    exact ⟨_, hexec, State.getV_setV_advance_same _ x _, State.setV_advance_frame { s with rndIn := rest } x _⟩
  · intro x kk s
    have hexec := exec_rndVxKk x kk s
    rw [s.takeRnd_frame] at hexec
    refine ⟨_, hexec, fun k _ => ?_, fun r hr => State.getV_setV_advance_of_ne _ _ hr, rfl, fun _ => rfl⟩
    rw [State.getV_setV_advance_same, BitVec.getLsbD_and]
    exact fun hbit => (Bool.and_eq_true_iff.1 hbit).2

end Sys2Proof.Machine
end

section
/-! The call and the return (42_control_flow.md R85, R87), the keypad instructions and the timer loads (44_timers_keypad.md
R101 to R106): the execute phase of each, guard by guard. -/

namespace Sys2Proof.Machine

/-! ### The stack (R85, R87) -/

theorem exec_ret_of_pop {s t : State} {w : Word} (h : s.pop = some (w, t)) : exec .ret s = .next (t.finishAt (w + 2)) := by
  simp only [exec, execRet, h]

theorem exec_ret_underflow {s : State} (h : s.sp.val = 0) : exec .ret s = .next (s.raise .stackUnderflow) := by
  simp only [exec, execRet, s.pop_eq_none.2 h]

theorem exec_callNnn_of_push (nnn : Address) {s t : State} (h : s.push s.pc = some t) :
    exec (.callNnn nnn) s = .next (t.finishAt (zextAddress nnn)) := by
  simp only [exec, execCallNnn, h]

theorem exec_callNnn_overflow (nnn : Address) {s : State} (h : s.sp.val = 16) :
    exec (.callNnn nnn) s = .next (s.raise .stackOverflow) := by
  simp only [exec, execCallNnn, (s.push_eq_none _).2 h]

/-- Below the bound a push answers. -/
theorem State.push_of_room {s : State} (h : s.sp.val < 16) (w : Word) : ∃ t, s.push w = some t := by
  refine Option.ne_none_iff_exists'.1 fun hnone => ?_
  have := (s.push_eq_none w).1 hnone
  omega

/-- Settles O17: a live entry is what a pop answers, and `raise` is all there is without one. -/
theorem returnPopsAndStepsPastTheCall : Obligations.ReturnPopsAndStepsPastTheCall := by
  intro s
  refine ⟨fun k hk => ?_, exec_ret_underflow⟩
  obtain ⟨t, hpop, hframe, hsp⟩ := s.pop_of_live k hk
  refine ⟨_, exec_ret_of_pop hpop, hsp, rfl, ?_⟩
  rw [hframe]
  exact ⟨rfl, fun _ => rfl⟩

/-- Settles O19: the call is a push of PC, and `raise` where the stack is full. -/
theorem callPushesItsOwnAddress : Obligations.CallPushesItsOwnAddress := by
  intro nnn s
  refine ⟨fun k hk => ?_, exec_callNnn_overflow nnn⟩
  obtain ⟨t, hpush⟩ := State.push_of_room (s := s) (by omega) s.pc
  obtain ⟨hframe, hsp, hentry⟩ := s.push_eq_some hpush k hk
  refine ⟨_, exec_callNnn_of_push nnn hpush, (hentry k).trans (if_pos rfl), fun j hj => (hentry j).trans (if_neg hj),
    hsp, zextAddress_toNat nnn, ?_⟩
  rw [hframe]
  exact ⟨rfl, fun _ => rfl⟩

/-- Settles O20: the return pops the entry the call pushed. -/
theorem callThenReturnResumesAfterTheCall : Obligations.CallThenReturnResumesAfterTheCall := by
  intro nnn s hroom
  obtain ⟨t, hcall, htop, -, htsp, -, ht, -⟩ := (callPushesItsOwnAddress nnn s).1 ⟨s.sp.val, hroom⟩ rfl
  obtain ⟨u, hret, husp, hupc, hu, -⟩ := (returnPopsAndStepsPastTheCall t).1 ⟨s.sp.val, hroom⟩ htsp
  refine ⟨t, u, hcall, hret, ?_⟩
  have hsp : u.sp = s.sp := Fin.ext husp
  rw [hu, hupc, hsp, htop, ht]

/-! ### The keypad (R103 to R106) -/

theorem exec_skpVx (x : Reg) {s : State} (h : (s.getV x).toNat ≤ 15) :
    exec (.skpVx x) s = .next (s.skipIf (s.key.getLsbD (s.getV x).toNat)) :=
  if_neg (by omega)

theorem exec_sknpVx (x : Reg) {s : State} (h : (s.getV x).toNat ≤ 15) :
    exec (.sknpVx x) s = .next (s.skipIf (!s.key.getLsbD (s.getV x).toNat)) :=
  if_neg (by omega)

theorem exec_skpVx_fault (x : Reg) {s : State} (h : (s.getV x).toNat > 15) :
    exec (.skpVx x) s = .next (s.raise .keyIndexOutOfRange) :=
  if_pos h

theorem exec_sknpVx_fault (x : Reg) {s : State} (h : (s.getV x).toNat > 15) :
    exec (.sknpVx x) s = .next (s.raise .keyIndexOutOfRange) :=
  if_pos h

/-- Settles O33: each of the two is the skip rule on the numbered key, or `raise` where no key has the number. -/
theorem keypadSkipsTestTheNumberedKey : Obligations.KeypadSkipsTestTheNumberedKey := by
  intro x s
  constructor
  · intro h p hp
    suffices hskip : exec p.1 s = .next (s.skipIf (decide (s.key.getLsbD (s.getV x).toNat = p.2))) from
      ⟨_, hskip, by simp only [State.skipIf_pc_toNat, decide_eq_true_eq], s.finishAt_frame _⟩
    obtain rfl | rfl : p = (.skpVx x, true) ∨ p = (.sknpVx x, false) := by simpa using hp
    · rw [exec_skpVx x h, Bool.decide_eq_true]
    · rw [exec_sknpVx x h, Bool.decide_eq_false]
  · intro h i hi
    obtain rfl | rfl : i = .skpVx x ∨ i = .sknpVx x := by simpa using hi
    · exact exec_skpVx_fault x h
    · exact exec_sknpVx_fault x h

theorem exec_ldVxK_held (x : Reg) {s : State} (h : s.key ≠ 0) :
    exec (.ldVxK x) s = .next (s.setV x (keyPick s.key)).advance :=
  if_neg h

theorem exec_ldVxK_wait (x : Reg) {s : State} (h : s.key = 0) : exec (.ldVxK x) s = .next s.wait :=
  if_pos h

/-- Settles O34: a key is held exactly where KEY is not 0, and the pick is then one of those held. -/
theorem waitForKeyReportsAHeldKey : Obligations.WaitForKeyReportsAHeldKey := by
  intro x s
  constructor
  · rintro ⟨k, -, hk⟩
    have hheld : s.key ≠ 0 := fun h0 => by simp [h0] at hk
    obtain ⟨hlt, hbit⟩ := keyPick_held s.key hheld
    refine ⟨_, exec_ldVxK_held x hheld, ?_, ?_, s.setV_advance_frame x _⟩
    · rwa [State.getV_setV_advance_same]
    · rwa [State.getV_setV_advance_same]
  · intro h
    exact exec_ldVxK_wait x (BitVec.eq_of_getLsbD_eq fun k hk => by rw [h k hk]; simp)

/-! ### The timer loads (R101, R102) -/

theorem exec_ldDtVx (x : Reg) (s : State) : exec (.ldDtVx x) s = .next (s.setDt (s.getV x)).advance := rfl

theorem exec_ldStVx (x : Reg) (s : State) : exec (.ldStVx x) s = .next (s.setSt (s.getV x)).advance := rfl

/-- Settles O32: each of the two is the write of its timer. -/
theorem timerLoadsWriteOnlyTheirTimer : Obligations.TimerLoadsWriteOnlyTheirTimer := fun x s =>
  ⟨⟨_, exec_ldDtVx x s, rfl, rfl, fun _ => rfl⟩, ⟨_, exec_ldStVx x s, rfl, rfl, fun _ => rfl⟩⟩

end Sys2Proof.Machine
end

section
/-! The step of 40_cycle.md R69, end by end: before the first reset, halted, faulting, waiting, completed. Each claim about a
step follows from `step_cases` or from the step of an engine that does not run. -/

namespace Sys2Proof.Machine

/-! ### The step of a running engine (R62, R66, R69) -/

theorem State.sampleKeys_eq (s : State) : s.sampleKeys = { s with key := s.keyIn.headD s.key, keyIn := s.keyIn.tail } := by
  unfold State.sampleKeys
  split
  · next h => rw [h, List.headD_nil, List.tail_nil, ← h]
  · next h => rw [h]; rfl

theorem countDown_eq_ofNat (t : Byte) : countDown t = BitVec.ofNat 8 (t.toNat - 1) :=
  BitVec.eq_of_toNat_eq (by rw [countDown_toNat, BitVec.toNat_ofNat]; omega)

/-- Settles O38: the step of the decoded instruction, with the state it starts from and the tick written out as record updates. -/
theorem stepRunsTheDecodedInstruction : Obligations.StepRunsTheDecodedInstruction := by
  intro s i hrun hp hdecode t hexec
  rw [← s.fetched_eq] at hexec
  rw [step_of_decode_exec hrun hp hdecode hexec, ← countDown_eq_ofNat, ← countDown_eq_ofNat]
  rfl

/-- The sample of the keypad, at each end of a step. -/
theorem step_samples_keys {s : State} (h : s.running) :
    ∃ t, step s = .next t ∧ t.key = s.keyIn.headD s.key ∧ t.keyIn = s.keyIn.tail := by
  rcases step_cases s h with ⟨-, -, hstep⟩ | ⟨-, c, -, hstep⟩ | ⟨-, -, -, -, hstep⟩ | ⟨-, -, i, t, -, -, hdone, hstep⟩
  · exact ⟨_, hstep, s.sampleKeys_key, s.sampleKeys_keyIn⟩
  · exact ⟨_, hstep, s.sampleKeys_key, s.sampleKeys_keyIn⟩
  · exact ⟨_, hstep, s.sampleKeys_key, s.sampleKeys_keyIn⟩
  · exact ⟨_, hstep, by rw [State.tick_key, hdone.key]; exact s.sampleKeys_key,
      by rw [State.tick_keyIn, hdone.keyIn]; exact s.sampleKeys_keyIn⟩

/-- Settles O42: every end of a step keeps the sample it began with. -/
theorem keypadIsSampledOncePerStep : Obligations.KeypadIsSampledOncePerStep := by
  intro s hrun
  obtain ⟨t, hstep, hkey, hkeyIn⟩ := step_samples_keys hrun
  refine ⟨t, hstep, fun k ks h => ?_, fun h => ?_⟩
  · rw [hkey, hkeyIn, h]; exact ⟨rfl, rfl⟩
  · rw [hkey, hkeyIn, h]; exact ⟨rfl, rfl⟩

/-! ### Faults (R111, R116, R118) -/

/-- A step whose first condition in phase order is `c` raises `c` on the state with KEY sampled and, where the fetch was in
range, IR fetched. -/
theorem step_of_stepFault {s : State} (h : s.running) {c : FaultCause} (hc : stepFault s = some c) :
    step s = .next (State.raise { s with
      key := s.keyIn.headD s.key, keyIn := s.keyIn.tail,
      ir := if s.pc.toNat ≤ 0xFFE then s.mem.readWord s.pc.toNat else s.ir } c) := by
  rcases step_cases s h with ⟨hp, hfault, hstep⟩ | ⟨hp, d, hfault, hstep⟩ | ⟨-, hnone, -⟩ | ⟨-, hnone, -⟩
  · cases hfault.symm.trans hc
    rw [hstep, s.sampleKeys_eq, if_neg (by omega)]
  · cases hfault.symm.trans hc
    rw [hstep, s.fetched_eq, if_pos hp]
  · cases hnone.symm.trans hc
  · cases hnone.symm.trans hc

/-- A step without a condition completes or waits, and the engine still runs. -/
theorem step_of_no_stepFault {s : State} (h : s.running) (hnone : stepFault s = none) :
    ∃ t, step s = .next t ∧ t.halt = false ∧ t.fcause = s.fcause ∧
      (t.status = some .executed ∨ t.status = some .waiting) := by
  rcases step_cases s h with ⟨-, hfault, -⟩ | ⟨-, c, hfault, -⟩ | ⟨-, -, -, -, hstep⟩ | ⟨-, -, i, t, -, -, hdone, hstep⟩
  · cases hfault.symm.trans hnone
  · cases hfault.symm.trans hnone
  · exact ⟨_, hstep, by rw [s.fetched_eq]; exact h.2, by rw [s.fetched_eq]; rfl, .inr rfl⟩
  · refine ⟨_, hstep, ?_, ?_, .inl ?_⟩
    · rw [State.tick_halt, hdone.halt, s.fetched_eq]; exact h.2
    · rw [State.tick_fcause, hdone.fcause, s.fetched_eq]
    · rw [State.tick_status, hdone.status]

/-- Settles O46: the fault a step takes, in its own words. -/
theorem faultEntryChangesNothingElse : Obligations.FaultEntryChangesNothingElse :=
  fun _ hrun _ hc => step_of_stepFault hrun hc

/-- Settles O45: a step with a condition raises it, and a step without one completes or waits. -/
theorem stepFaultsExactlyOnTheListedConditions : Obligations.StepFaultsExactlyOnTheListedConditions := by
  intro s hrun
  rcases hfault : stepFault s with _ | c
  · obtain ⟨t, hstep, hends⟩ := step_of_no_stepFault hrun hfault
    exact ⟨t, hstep, nofun, fun _ => hends⟩
  · refine ⟨_, step_of_stepFault hrun hfault, fun d hd => ?_, nofun⟩
    cases hd
    exact ⟨rfl, rfl, rfl⟩

/-! ### Timers and waiting (R66, R68) -/

theorem State.tick_st_toNat_of_executed {s : State} (h : s.status = some .executed) :
    s.tick.st.toNat = s.st.toNat - 1 := by
  rw [State.tick_st, if_pos h, countDown_toNat]

@[simp] theorem State.fetched_st (s : State) : s.fetched.st = s.st := by
  rw [State.fetched_eq]

@[simp] theorem State.fetched_getV (s : State) (r : Reg) : s.fetched.getV r = s.getV r := by
  rw [State.fetched_eq]; rfl

/-- Both timers after a completed execute phase, before the tick. -/
theorem exec_timers {i : Instr} {s t : State} (h : exec i s = .next t) :
    (∀ x, i = .ldDtVx x → t.dt = s.getV x) ∧ ((∀ x, i ≠ .ldDtVx x) → t.dt = s.dt) ∧
    (∀ x, i = .ldStVx x → t.st = s.getV x) ∧ ((∀ x, i ≠ .ldStVx x) → t.st = s.st) := by
  refine ⟨?_, fun hi => ?_, ?_, fun hi => ?_⟩
  · rintro x rfl
    cases (exec_ldDtVx x s).symm.trans h; rfl
  · by_contra hdt
    obtain ⟨x, hx⟩ := (exec_effect h).dt hdt
    exact hi x hx
  · rintro x rfl
    cases (exec_ldStVx x s).symm.trans h; rfl
  · by_contra hst
    obtain ⟨x, hx⟩ := (exec_effect h).st hst
    exact hi x hx

/-- Settles O47: the completed end of a step ticks what its execute phase left, and the other ends do not tick. -/
theorem timersTickOncePerCompletedStep : Obligations.TimersTickOncePerCompletedStep := by
  intro s hrun
  rcases step_cases s hrun with ⟨-, -, hstep⟩ | ⟨-, c, -, hstep⟩ | ⟨-, -, -, -, hstep⟩ |
    ⟨-, -, i, t, hdecode, hexec, hdone, hstep⟩
  · exact ⟨_, hstep, fun _ => ⟨s.sampleKeys_dt, s.sampleKeys_st⟩, fun h => by cases h⟩
  · exact ⟨_, hstep, fun _ => ⟨s.fetched_dt, s.fetched_st⟩, fun h => by cases h⟩
  · exact ⟨_, hstep, fun _ => ⟨s.fetched_dt, s.fetched_st⟩, fun h => by cases h⟩
  · refine ⟨_, hstep, fun h => absurd (t.tick_status.trans hdone.status) h, fun _ j hj => ?_⟩
    cases hdecode.symm.trans hj
    rw [State.tick_dt_toNat_of_executed hdone.status, State.tick_st_toNat_of_executed hdone.status]
    obtain ⟨hdt, hdt', hst, hst'⟩ := exec_timers hexec
    exact ⟨fun x hx => by rw [hdt x hx, s.fetched_getV], fun hi => by rw [hdt' hi, s.fetched_dt],
      fun x hx => by rw [hst x hx, s.fetched_getV], fun hi => by rw [hst' hi, s.fetched_st]⟩

/-- Settles O48: of the four ends of a step one waits. -/
theorem waitingStepKeepsPcAndTimers : Obligations.WaitingStepKeepsPcAndTimers := by
  intro s t hrun h hwaits
  rcases step_cases s hrun with ⟨-, -, hstep⟩ | ⟨-, c, -, hstep⟩ | ⟨-, -, hkey, hdecode, hstep⟩ |
    ⟨-, -, i, u, -, -, hdone, hstep⟩
  · cases hstep.symm.trans h; cases hwaits
  · cases hstep.symm.trans h; cases hwaits
  · cases hstep.symm.trans h
    refine ⟨?_, hkey, ?_⟩
    · rw [s.fetched_eq]; rfl
    · rw [State.wait_ir, s.fetched_ir]; exact hdecode
  · cases hstep.symm.trans h
    rw [State.tick_status, hdone.status] at hwaits; cases hwaits

/-! ### The halted engine (R61, R117) -/

/-- In a state of the invariant the status port already shows the fault. -/
theorem State.Inv.haltedStep_eq {s : State} (h : s.Inv) (hhalt : s.halt = true) : s.haltedStep = s := by
  rw [State.haltedStep, ← h.haltIsShown hhalt]

theorem State.Inv.step_of_halted {s : State} (h : s.Inv) (hhalt : s.halt = true) : step s = .next s := by
  rw [step_halted h.launched hhalt, h.haltedStep_eq hhalt]

/-- Settles O43: the step of a halted engine writes the status port, which the invariant says shows that fault already. -/
theorem haltedStepChangesNothing : Obligations.HaltedStepChangesNothing :=
  fun _ hreset hhalt => ⟨step_halted hreset hhalt, fun h => h.step_of_halted hhalt⟩

/-- Settles O44, by induction on the number of steps. -/
theorem haltedRunStandsStill : Obligations.HaltedRunStandsStill := by
  intro n s hinv hhalt
  induction n with
  | zero => rfl
  | succ n ih =>
    have hstep : core.step s = .next s := hinv.step_of_halted hhalt
    simp only [Host.Core.run, hstep]
    exact ih

/-! ### Totality, and the engine before its first reset (R60, R132) -/

theorem step_total {s : State} (h : s.wasReset = true) : ∃ t, step s = .next t := by
  obtain hhalt | hhalt := s.halt.eq_false_or_eq_true
  · exact ⟨_, step_halted h hhalt⟩
  · obtain ⟨t, hstep, -⟩ := step_samples_keys ⟨h, hhalt⟩
    exact ⟨t, hstep⟩

theorem State.load_before_reset {s : State} (h : s.wasReset = false) (bytes : List Byte) :
    s.load bytes = .refused .beforeReset := by
  simp [State.load, h]

/-- The moves at the ports, which do not reset the engine. -/
def HostAction.isPort (a : HostAction) : Prop := a = .redrawAck ∨ (∃ k, a = .writeKeys k) ∨ ∃ b, a = .supplyRnd b

theorem hostAct_port {a : HostAction} (ha : a.isPort) (s : State) :
    ∃ t, hostAct a s = .next t ∧ t.wasReset = s.wasReset := by
  obtain rfl | ⟨k, rfl⟩ | ⟨b, rfl⟩ := ha <;> exact ⟨_, rfl, rfl⟩

theorem hostAct_before_reset {a : HostAction} (ha : a = .step ∨ ∃ bytes, a = .load bytes) {s : State}
    (h : s.wasReset = false) : hostAct a s = .refused .beforeReset := by
  obtain rfl | ⟨bytes, rfl⟩ := ha
  · exact step_before_reset h
  · simp only [hostAct, State.load_before_reset h bytes]

/-- A run goes on from the state its first move answers. -/
theorem hostRun_cons_next {a : HostAction} {s t : State} (h : hostAct a s = .next t) (as : List HostAction) :
    hostRun (a :: as) s = hostRun as t := by
  simp only [hostRun, h]

theorem hostRun_refused {a : HostAction} {s : State} {r : Refusal} (h : hostAct a s = .refused r) (as : List HostAction) :
    hostRun (a :: as) s = .refused r := by
  simp only [hostRun, h]

/-- Settles O41; the run by induction on the moves at the ports before the one that is refused. -/
theorem stepsAreTotalAfterResetAndRefusedBefore : Obligations.StepsAreTotalAfterResetAndRefusedBefore := by
  refine ⟨fun s => step_total, fun s h => ⟨step_before_reset h, State.load_before_reset h⟩, ?_⟩
  intro s before after a h hports ha
  induction before generalizing s with
  | nil => exact hostRun_refused (hostAct_before_reset ha h) after
  | cons m ms ih =>
    obtain ⟨t, hact, ht⟩ := hostAct_port (hports m List.mem_cons_self) s
    rw [List.cons_append, hostRun_cons_next hact]
    exact ih t (ht.trans h) fun m' hm' => hports m' (List.mem_cons_of_mem m hm')

end Sys2Proof.Machine
end

section
/-! The invariant of 10_state.md section 10: what it does not look at, what a fault, a wait and a completed instruction do to
it, and so that every step and every move of the host keeps it. -/

namespace Sys2Proof.Machine

/-! ### Memory, stack and PC after an execute phase -/

/-- Stores are range checked, so an execute phase keeps memory canonical. -/
theorem exec_keeps_wf {i : Instr} {s t : State} (hwf : s.mem.wf) (h : exec i s = .next t) : t.mem.wf := by
  by_cases hmem : t.mem = s.mem
  · rwa [hmem]
  obtain ⟨x, rfl | rfl⟩ := (exec_effect h).mem hmem
  · by_cases hrange : s.i.toNat + 2 ≤ 0xFFF
    · cases (exec_bcdVx x hrange).symm.trans h
      exact Memory.writeBytes_wf _ hwf (by rw [decimalDigits_length]; omega)
    · cases (exec_bcdVx_fault x (by omega)).symm.trans h
      exact hwf
  · by_cases hrange : s.i.toNat + x.val ≤ 0xFFF
    · cases (exec_stmVx x hrange).symm.trans h
      exact Memory.writeBytes_wf _ hwf (by rw [s.block_length]; omega)
    · cases (exec_stmVx_fault x (by omega)).symm.trans h
      exact hwf

/-- A stack entry after an execute phase is the old one, or the address of a call. -/
theorem exec_getStack {i : Instr} {s t : State} (h : exec i s = .next t) (k : Fin 16) :
    t.getStack k = s.pc ∨ t.getStack k = s.getStack k := by
  by_cases hstack : t.stack = s.stack
  · exact .inr (by rw [State.getStack, hstack]; rfl)
  obtain ⟨nnn, rfl⟩ := (exec_effect h).stack hstack
  by_cases hsp : s.sp.val < 16
  · obtain ⟨u, hpush⟩ := State.push_of_room hsp s.pc
    cases (exec_callNnn_of_push nnn hpush).symm.trans h
    exact (State.push_spec hpush).2 k
  · cases (exec_callNnn_overflow nnn (by omega : s.sp.val = 16)).symm.trans h
    exact .inr rfl

/-- No target lies above 0xFFF + 0xFF, the largest of Bnnn (R14). -/
theorem Target.le {i : Instr} {s : State} {w : Word} (h : Target i s w) (hpc : s.pc.toNat ≤ 0xFFE)
    (hstack : ∀ k, (s.getStack k).toNat ≤ 0xFFE) : w.toNat ≤ 0x10FE := by
  have add_le : ∀ a b : Word, a.toNat ≤ 0xFFE → b.toNat ≤ 4 → (a + b).toNat ≤ 0x10FE := fun a b ha hb => by
    rw [BitVec.toNat_add]; omega
  cases h with
  | jump nnn => rw [zextAddress_toNat]; omega
  | indexed nnn => rw [indexedTarget_toNat]; omega
  | resume k => exact add_le _ _ (hstack k) (by decide)
  | line => exact add_le _ _ hpc (by decide)
  | skip => exact add_le _ _ hpc (by decide)

/-! ### The invariant at the ends of a step -/

/-- The invariant does not look at the inputs, at IR, at REDRAW or at the timers. -/
theorem State.Inv.of_unread_fields {s : State} (h : s.Inv) (key ir : BitVec 16) (dt st : Byte) (redraw : Bool)
    (keyIn : List (BitVec 16)) (rndIn : List Byte) (draws : Nat) :
    State.Inv { s with
      key := key, ir := ir, dt := dt, st := st, redraw := redraw, keyIn := keyIn, rndIn := rndIn, draws := draws } :=
  ⟨h.memory, h.haltHasCause, h.causeIsListed, h.pcBound, h.stackBound, h.haltIsShown, h.shownIsHalt, h.launched⟩

theorem State.Inv.sampleKeys {s : State} (h : s.Inv) : s.sampleKeys.Inv := by
  rw [s.sampleKeys_eq]; exact h.of_unread_fields ..

theorem State.Inv.fetched {s : State} (h : s.Inv) : s.fetched.Inv := by
  rw [s.fetched_eq]; exact h.of_unread_fields ..

theorem State.Inv.tick {s : State} (h : s.Inv) : s.tick.Inv := by
  unfold State.tick
  split
  · exact h.of_unread_fields ..
  · exact h

theorem FaultCause.code_ne_zero (c : FaultCause) : c.code ≠ 0 := by cases c <;> decide

theorem FaultCause.code_ne_seven (c : FaultCause) : c.code ≠ 7 := by cases c <;> decide

/-- A fault writes HALT, FCAUSE and the status port together. -/
theorem State.Inv.raise {s : State} (h : s.Inv) (c : FaultCause) : (s.raise c).Inv where
  memory := h.memory
  haltHasCause := iff_of_true rfl c.code_ne_zero
  causeIsListed := c.code_ne_seven
  pcBound := h.pcBound
  stackBound := h.stackBound
  haltIsShown := fun _ => rfl
  shownIsHalt := fun _ hshown => by cases hshown; exact ⟨rfl, rfl⟩
  launched := h.launched

theorem State.Inv.wait {s : State} (h : s.Inv) (hhalt : s.halt = false) : s.wait.Inv where
  memory := h.memory
  haltHasCause := h.haltHasCause
  causeIsListed := h.causeIsListed
  pcBound := h.pcBound
  stackBound := h.stackBound
  haltIsShown := fun hhalted => by cases hhalt.symm.trans hhalted
  shownIsHalt := nofun
  launched := h.launched

theorem State.Inv.completed {i : Instr} {s t : State} (h : s.Inv) (hhalt : s.halt = false) (hpc : s.pc.toNat ≤ 0xFFE)
    (hexec : exec i s = .next t) (hdone : Completed s t) : t.Inv where
  memory := exec_keeps_wf h.memory hexec
  haltHasCause := by rw [hdone.halt, hdone.fcause]; exact h.haltHasCause
  causeIsListed := by rw [hdone.fcause]; exact h.causeIsListed
  pcBound := (exec_target hexec hdone.status).le hpc h.stackBound
  stackBound := fun k => by
    rcases exec_getStack hexec k with hk | hk <;> rw [hk]
    · exact hpc
    · exact h.stackBound k
  haltIsShown := fun hhalted => by cases hhalt.symm.trans (hdone.halt.symm.trans hhalted)
  shownIsHalt := fun _ hshown => by cases hdone.status.symm.trans hshown
  launched := hdone.wasReset.trans h.launched

/-- Settles O59: the halted step stands still, and each of the four ends of a running step keeps the invariant. -/
theorem everyStepKeepsTheInvariant : Obligations.EveryStepKeepsTheInvariant := by
  intro s t hinv h
  obtain hhalt | hhalt := s.halt.eq_false_or_eq_true
  · cases (hinv.step_of_halted hhalt).symm.trans h
    exact hinv
  have hhalt' : s.fetched.halt = false := by rw [s.fetched_eq]; exact hhalt
  rcases step_cases s ⟨hinv.launched, hhalt⟩ with ⟨-, -, hstep⟩ | ⟨-, c, -, hstep⟩ | ⟨-, -, -, -, hstep⟩ |
    ⟨hpc, -, i, u, -, hexec, hdone, hstep⟩
  · cases hstep.symm.trans h
    exact hinv.sampleKeys.raise _
  · cases hstep.symm.trans h
    exact hinv.fetched.raise c
  · cases hstep.symm.trans h
    exact hinv.fetched.wait hhalt'
  · cases hstep.symm.trans h
    exact (hinv.fetched.completed hhalt' (by rw [s.fetched_eq]; exact hpc) hexec hdone).tick

/-! ### The invariant at the host's moves -/

/-- Settles O58: a running engine with nothing listed in memory, on the stack or on the status port. -/
theorem resetSatisfiesTheInvariant : Obligations.ResetSatisfiesTheInvariant where
  memory := Memory.wf_nil
  haltHasCause := by decide
  causeIsListed := by decide
  pcBound := by decide
  stackBound := by decide
  haltIsShown := nofun
  shownIsHalt := nofun
  launched := rfl

theorem State.hostReset_inv (s : State) : s.hostReset.Inv :=
  resetSatisfiesTheInvariant.of_unread_fields ..

theorem State.load_of_fits {s : State} (h : s.wasReset = true) {bytes : List Byte} (hfits : bytes.length ≤ 3584) :
    s.load bytes = .next (.loaded, s.setMem (s.mem.writeBytes 0x200 bytes)) := by
  rw [State.load, if_pos h, if_pos hfits]

theorem State.load_of_too_large {s : State} (h : s.wasReset = true) {bytes : List Byte} (hlarge : bytes.length > 3584) :
    s.load bytes = .next (.programTooLarge, s) := by
  rw [State.load, if_pos h, if_neg (Nat.not_le.2 hlarge)]

theorem State.Inv.setMem {s : State} (h : s.Inv) {m : Memory} (hm : m.wf) : (s.setMem m).Inv :=
  ⟨hm, h.haltHasCause, h.causeIsListed, h.pcBound, h.stackBound, h.haltIsShown, h.shownIsHalt, h.launched⟩

/-- Every move of the host answers a next state of the invariant. -/
theorem hostAct_keeps_inv (a : HostAction) {s : State} (h : s.Inv) : ∃ t, hostAct a s = .next t ∧ t.Inv := by
  cases a with
  | reset => exact ⟨_, rfl, s.hostReset_inv⟩
  | load bytes =>
    by_cases hfits : bytes.length ≤ 3584
    · exact ⟨s.setMem (s.mem.writeBytes 0x200 bytes), by simp only [hostAct, State.load_of_fits h.launched hfits],
        h.setMem (Memory.writeBytes_wf bytes h.memory (by omega))⟩
    · exact ⟨s, by simp only [hostAct, State.load_of_too_large h.launched (Nat.not_le.1 hfits)], h⟩
  | writeKeys k => exact ⟨_, rfl, h.of_unread_fields ..⟩
  | supplyRnd b => exact ⟨_, rfl, h.of_unread_fields ..⟩
  | redrawAck => exact ⟨_, rfl, h.of_unread_fields ..⟩
  | step =>
    obtain ⟨t, hstep⟩ := step_total h.launched
    exact ⟨t, hstep, everyStepKeepsTheInvariant s t h hstep⟩

theorem hostRun_keeps_inv (as : List HostAction) {s : State} (h : s.Inv) : ∃ t, hostRun as s = .next t ∧ t.Inv := by
  induction as generalizing s with
  | nil => exact ⟨s, rfl, h⟩
  | cons a as ih =>
    obtain ⟨t, hact, ht⟩ := hostAct_keeps_inv a h
    rw [hostRun_cons_next hact]
    exact ih ht

/-- Settles O60: a run is its moves, and a reset reaches the invariant from every state. -/
theorem everyHostRunKeepsTheInvariant : Obligations.EveryHostRunKeepsTheInvariant :=
  ⟨fun as _ h => hostRun_keeps_inv as h, fun as s => hostRun_keeps_inv as s.hostReset_inv⟩

/-! ### Reset, load and the ports -/

/-- Settles O54: `hostReset` overwrites every field but the three that are the host's. -/
theorem resetGivesTheLaunchState : Obligations.ResetGivesTheLaunchState := by
  intro s t h
  cases h
  refine ⟨fun _ _ => rfl, fun r => ?_, rfl, rfl, fun k => ?_, rfl, fun k _ => FrameBuffer.cell_clear k, rfl, rfl,
    fun k _ => BitVec.getLsbD_zero, rfl, rfl, rfl, rfl, rfl, fun s' t' h' => ?_⟩
  · exact Vector.getElem_replicate r.isLt
  · exact Vector.getElem_replicate k.isLt
  · cases h'; rfl

/-- Settles O55: the load is one store of the program at 0x200, or nothing. -/
theorem loadPlacesTheProgramAndNothingElse : Obligations.LoadPlacesTheProgramAndNothingElse := by
  intro s bytes hreset hwf
  refine ⟨fun hfits => ⟨_, State.load_of_fits hreset hfits, fun j hj => ?_, fun a ha => ?_, rfl⟩,
    State.load_of_too_large hreset⟩
  · exact Memory.read_writeBytes_inside bytes hwf (by omega) hj
  · exact Memory.read_writeBytes_outside bytes hwf (by omega) ha

/-- Settles O56: each port is one field, read by the next sample or the next draw. -/
theorem hostPortsTouchOnlyTheirOwn : Obligations.HostPortsTouchOnlyTheirOwn := by
  intro s k b
  refine ⟨rfl, ⟨_, rfl, rfl, fun hrun => ?_⟩, ⟨_, rfl, rfl, fun x => ?_⟩⟩
  · obtain ⟨u, hstep, hkey, -⟩ := step_samples_keys (s := s.writeKeys k) hrun
    exact ⟨u, hstep, hkey⟩
  · obtain ⟨u, hexec, hv, -⟩ := randomByteIsMaskedByKk.1 x 0xFF b _ (s.supplyRnd b) rfl
    exact ⟨u, hexec, hv.trans (BitVec.and_allOnes (x := b))⟩

end Sys2Proof.Machine
end

section
/-! Canonical memories as data (20_memory.md section 1), and the placing of an instruction word where the next step fetches
(R33). -/

namespace Sys2Proof.Machine

/-! ### Canonical memories that read alike -/

/-- The first listed address reads as its byte. -/
theorem Memory.read_head (c : Host.Cell) (m : Memory) : Memory.read (c :: m) c.1 = c.2 := if_pos rfl

/-- A canonical memory whose first cell is `c` does not read alike with one that lists nothing up to that address. -/
theorem Memory.read_ne_of_lt {c : Host.Cell} {m m' : Memory} (h : Memory.wf (c :: m)) (hlt : ∀ d ∈ m', c.1 < d.1) :
    Memory.read (c :: m) c.1 ≠ m'.read c.1 := by
  rw [Memory.read_head, Memory.read_of_lt hlt]
  exact (Memory.wf_head h).2.1

/-- Below the first listed address of a canonical memory nothing is listed. -/
theorem Memory.lt_of_lt_head {a : Nat} {c : Host.Cell} {m : Memory} (h : Memory.wf (c :: m)) (ha : a < c.1) :
    ∀ d ∈ c :: m, a < d.1 :=
  List.forall_mem_cons.2 ⟨ha, fun d hd => lt_trans ha ((Memory.wf_head h).2.2 d hd)⟩

/-- Dropping the same first cell from two canonical memories that read alike leaves memories that read alike. -/
theorem Memory.tail_reads_alike {c : Host.Cell} {m m' : Memory} (h : Memory.wf (c :: m)) (h' : Memory.wf (c :: m'))
    (hread : ∀ a, Memory.read (c :: m) a = Memory.read (c :: m') a) (a : Nat) : m.read a = m'.read a := by
  by_cases ha : c.1 = a
  · rw [← ha, Memory.read_of_lt (Memory.wf_head h).2.2, Memory.read_of_lt (Memory.wf_head h').2.2]
  · simpa [Memory.read, ha] using hread a

/-- Settles O57, by induction on the first list: the first cells agree, and then the tails read alike. -/
theorem canonicalMemoriesThatReadAlikeAreEqual : Obligations.CanonicalMemoriesThatReadAlikeAreEqual := by
  intro m m' h h' hread
  induction m generalizing m' with
  | nil =>
    cases m' with
    | nil => rfl
    | cons d m' => exact absurd (hread d.1).symm (Memory.read_ne_of_lt h' (by simp))
  | cons c m ih =>
    cases m' with
    | nil => exact absurd (hread c.1) (Memory.read_ne_of_lt h (by simp))
    | cons d m' =>
      obtain hlt | heq | hgt := lt_trichotomy c.1 d.1
      · exact absurd (hread c.1) (Memory.read_ne_of_lt h (Memory.lt_of_lt_head h' hlt))
      · have hbyte : c.2 = d.2 := by
          rw [← Memory.read_head c m, hread, heq, Memory.read_head]
        obtain rfl : c = d := Prod.ext heq hbyte
        rw [ih m' (Memory.wf_tail h) (Memory.wf_tail h') (Memory.tail_reads_alike h h' hread)]
      · exact absurd (hread d.1).symm (Memory.read_ne_of_lt h' (Memory.lt_of_lt_head h hgt))

/-! ### The placed word -/

theorem tableWord_toNat (w : Word) : tableWord 16 w.toNat = w := by
  rw [tableWord, Nat.mod_eq_of_lt w.isLt, BitVec.ofNat_toNat, BitVec.setWidth_eq]

/-- The two bytes of a word, put together again (R33). -/
theorem wordOfBytes_extract (w : Word) : wordOfBytes (w.extractLsb' 8 8) (w.extractLsb' 0 8) = w :=
  BitVec.eq_of_toNat_eq (by
    rw [bytes_toNat, BitVec.extractLsb'_toNat, BitVec.extractLsb'_toNat, Nat.shiftRight_eq_div_pow]; omega)

theorem decodeTableWord_eq (w : Word) : decodeTableWord 16 w.toNat = (decode w).toOption := by
  rw [decodeTableWord, tableWord_toNat, bytesOfWord, decodeBytes, wordOfBytes_extract]
  cases decode w <;> rfl

theorem State.withFetchWord_eq (s : State) (w : Word) :
    s.withFetchWord 16 w.toNat = s.setMem (s.mem.writeBytes s.pc.toNat (bytesOfWord w)) := by
  rw [State.withFetchWord, State.placeWord, tableWord_toNat]

/-- Settles O39. -/
theorem placedWordIsTheOneFetched : Obligations.PlacedWordIsTheOneFetched := by
  intro s w hwf hpc
  have hfits : s.pc.toNat + (bytesOfWord w).length ≤ 4096 := by simp only [bytesOfWord, List.length]; omega
  rw [s.withFetchWord_eq, decodeTableWord_eq]
  refine ⟨?_, fun a ha ha' => ?_, rfl, fun i hi => by rw [hi]; rfl, fun e he => by rw [he]; rfl⟩
  · have hhigh := Memory.read_writeBytes_inside _ hwf hfits (j := 0) (by simp [bytesOfWord])
    have hlow := Memory.read_writeBytes_inside _ hwf hfits (j := 1) (by simp [bytesOfWord])
    rw [State.setMem_mem, Memory.readWord, hlow]
    exact (congrArg (wordOfBytes · _) hhigh).trans (wordOfBytes_extract w)
  · exact Memory.read_writeBytes_outside _ hwf hfits (by simp only [bytesOfWord, List.length]; omega)

end Sys2Proof.Machine
end

section
/-! ST, REDRAW and IR are outputs (R19, R20, R21): two runs from states that differ in these three only stay alike in
everything else. -/

namespace Sys2Proof.Machine

/-- `s` with ST, REDRAW and IR replaced. -/
def State.withOutputs (s : State) (st : Byte) (redraw : Bool) (ir : Word) : State :=
  { s with st := st, redraw := redraw, ir := ir }

/-- The two states differ in ST, REDRAW and IR at most. -/
def AlikeButOutputs (t u : State) : Prop := u = { t with st := u.st, redraw := u.redraw, ir := u.ir }

section
variable {s : State} {st : Byte} {redraw : Bool} {ir : Word}

theorem State.push_pc_withOutputs :
    (s.withOutputs st redraw ir).push (s.withOutputs st redraw ir).pc =
      (s.push s.pc).map (·.withOutputs st redraw ir) := by
  by_cases h : s.sp.val < 16 <;> simp [State.push, State.withOutputs, h]

theorem State.pop_withOutputs :
    (s.withOutputs st redraw ir).pop = s.pop.map fun p => (p.1, p.2.withOutputs st redraw ir) := by
  by_cases h : 0 < s.sp.val <;> simp [State.pop, State.withOutputs, h]

theorem State.takeRnd_withOutputs : (s.withOutputs st redraw ir).takeRnd = s.takeRnd.withOutputs st redraw ir := by
  unfold State.takeRnd State.withOutputs
  cases s.rndIn <;> rfl

theorem State.loadBlock_withOutputs (rs : List Reg) :
    (s.withOutputs st redraw ir).loadBlock rs = (s.loadBlock rs).withOutputs st redraw ir := by
  obtain ⟨hframe, hload⟩ := s.loadBlock_spec rs
  obtain ⟨hframe', hload'⟩ := (s.withOutputs st redraw ir).loadBlock_spec rs
  have hv := State.v_eq_of_getV fun r => (hload' r).trans (hload r).symm
  rw [hframe', hv, hframe]
  rfl

theorem State.sampleKeys_withOutputs :
    (s.withOutputs st redraw ir).sampleKeys = s.sampleKeys.withOutputs st redraw ir := by
  rw [State.sampleKeys_eq, State.sampleKeys_eq]; rfl

/-- The fetch overwrites IR, so what it held before is lost. -/
theorem State.fetched_withOutputs :
    (s.withOutputs st redraw ir).fetched = s.fetched.withOutputs st redraw s.fetched.ir := by
  rw [State.fetched_eq, State.fetched_eq]; rfl

/-! ### The execute phase and the tick -/

theorem exec_withOutputs {i : Instr} {t : State} (h : exec i s = .next t) :
    ∃ u, exec i (s.withOutputs st redraw ir) = .next u ∧ AlikeButOutputs t u := by
  cases i
  case ret =>
    simp only [exec, execRet, State.pop_withOutputs] at h ⊢
    split at h <;> next hpop => cases h; rw [hpop]; exact ⟨_, rfl, rfl⟩
  case callNnn =>
    simp only [exec, execCallNnn, State.push_pc_withOutputs] at h ⊢
    split at h <;> next hpush => cases h; rw [hpush]; exact ⟨_, rfl, rfl⟩
  case rndVxKk x kk =>
    cases h
    refine ⟨_, exec_rndVxKk x kk _, ?_⟩
    rw [State.takeRnd_withOutputs]
    rfl
  case ldmVx x =>
    simp only [exec, execLdmVx] at h
    split at h
    · next hrange =>
      cases h
      refine ⟨_, if_pos hrange, ?_⟩
      rw [State.loadBlock_withOutputs]
      rfl
    · next hrange => cases h; exact ⟨_, if_neg hrange, rfl⟩
  case bcdVx | stmVx | drwVxVyN | skpVx | sknpVx | ldVxK =>
    simp only [exec, execBcdVx, execStmVx, execDrwVxVyN, execSkpVx, execSknpVx, execLdVxK] at h
    split at h
    · next hguard => cases h; exact ⟨_, if_pos hguard, rfl⟩
    · next hguard => cases h; exact ⟨_, if_neg hguard, rfl⟩
  all_goals cases h; exact ⟨_, rfl, rfl⟩

theorem AlikeButOutputs.tick {t u : State} (h : AlikeButOutputs t u) : AlikeButOutputs t.tick u.tick := by
  have hstatus : u.status = t.status := by rw [h]
  unfold State.tick
  rw [hstatus]
  split
  · rw [h]; rfl
  · exact h

theorem decodeExecute_withOutputs {t : State} (h : decodeExecute s = .next t) :
    ∃ u, decodeExecute (s.withOutputs st redraw s.ir) = .next u ∧ AlikeButOutputs t u := by
  rcases hdecode : decode s.ir with e | i
  · cases (decodeExecute_unknown hdecode).symm.trans h
    exact ⟨_, decodeExecute_unknown (s := s.withOutputs st redraw s.ir) hdecode, rfl⟩
  · simp only [decodeExecute, hdecode] at h
    split at h <;> cases h
    next v hexec =>
    obtain ⟨u, hexec', halike⟩ := exec_withOutputs (st := st) (redraw := redraw) (ir := s.ir) hexec
    exact ⟨_, decodeExecute_next (s := s.withOutputs st redraw s.ir) hdecode hexec', halike.tick⟩

/-- Settles O53: each way a step can go is taken by both states, and what it writes is alike. -/
theorem soundRedrawAndOpcodeRegisterAreNeverRead : Obligations.SoundRedrawAndOpcodeRegisterAreNeverRead := by
  intro s t st redraw ir h
  obtain hreset | hreset := s.wasReset.eq_false_or_eq_true
  swap
  · cases (step_before_reset hreset).symm.trans h
  obtain hhalt | hhalt := s.halt.eq_false_or_eq_true
  · cases (step_halted hreset hhalt).symm.trans h
    exact ⟨_, step_halted (s := s.withOutputs st redraw ir) hreset hhalt, rfl⟩
  by_cases hpc : s.pc.toNat ≤ 0xFFE
  · rw [step_fetched hreset hhalt hpc] at h
    obtain ⟨u, hexec, halike⟩ := decodeExecute_withOutputs (st := st) (redraw := redraw) h
    rw [← State.fetched_withOutputs (ir := ir)] at hexec
    exact ⟨u, (step_fetched (s := s.withOutputs st redraw ir) hreset hhalt hpc).trans hexec, halike⟩
  · cases (step_fetch_fault hreset hhalt (Nat.not_le.1 hpc)).symm.trans h
    refine ⟨_, step_fetch_fault (s := s.withOutputs st redraw ir) hreset hhalt (Nat.not_le.1 hpc), ?_⟩
    rw [State.sampleKeys_withOutputs]
    rfl

end

end Sys2Proof.Machine
end

section
/-! The rasterizer of 45_sprite_drawing.md R109: after each pixel, the cells inverted so far and the report of a cell that was
set. No two pixels of a sprite fall on one cell, so every cell is still as it was when its own pixel is drawn. -/

namespace Sys2Proof.Machine

/-- Drawing has inverted exactly the cells of `S` in `f`, and reports whether one of them was set. -/
structure Drawn (f : FrameBuffer) (S : Nat → Prop) (k : Raster) : Prop where
  cell : ∀ j < 2048, k.fb.cell j ≠ f.cell j ↔ S j
  hit : k.hit = true ↔ ∃ j < 2048, f.cell j = true ∧ S j

theorem Drawn.congr {f : FrameBuffer} {S S' : Nat → Prop} {k : Raster} (h : Drawn f S k) (hS : ∀ j, S' j ↔ S j) :
    Drawn f S' k := by
  rwa [show S' = S from funext fun j => propext (hS j)]

theorem Drawn.start (f : FrameBuffer) : Drawn f (fun _ => False) ⟨f, false⟩ := ⟨by simp, by simp⟩

/-- Inverting a cell not yet inverted. -/
theorem Drawn.toggle {f : FrameBuffer} {S : Nat → Prop} {k : Raster} (h : Drawn f S k) {p : Nat} (hp : p < 2048)
    (hfresh : ¬ S p) : Drawn f (fun j => S j ∨ j = p) ⟨k.fb.toggle p, k.hit || k.fb.cell p⟩ := by
  have hsame : k.fb.cell p = f.cell p := not_not.1 fun hne => hfresh ((h.cell p hp).1 hne)
  constructor
  · intro j hj
    rw [FrameBuffer.cell_toggle _ p j hp hj]
    by_cases hjp : j = p
    · subst hjp; simp [hsame]
    · simpa [hjp] using h.cell j hj
  · rw [Bool.or_eq_true, h.hit, hsame]
    constructor
    · rintro (⟨j, hj, hset, hS⟩ | hset)
      · exact ⟨j, hj, hset, .inl hS⟩
      · exact ⟨p, hp, hset, .inr rfl⟩
    · rintro ⟨j, hj, hset, hS | rfl⟩
      · exact .inl ⟨j, hj, hset, hS⟩
      · exact .inr hset

/-- The wraps keep the pixels of a sprite apart: it has at most 32 rows and 64 columns. -/
theorem spriteCell_inj {x0 y0 r c r' c' : Nat} (hr : r < 32) (hr' : r' < 32) (hc : c < 8) (hc' : c' < 8)
    (h : spriteCell x0 y0 r c = spriteCell x0 y0 r' c') : r = r' ∧ c = c' := by
  simp only [spriteCell, Config.fbRows, Config.fbCols] at h
  omega

section
variable (m : Memory) (base x0 y0 : Nat)

/-- Pixel `c` of row `r` of the sprite at `base` is 1 (R109 (c)). -/
def litPixel (r c : Nat) : Prop := (m.read (base + r)).getLsbD (7 - c) = true

/-- The cells of the lit pixels that come before pixel `c` of row `r`, in the order of drawing. -/
def litBefore (r c j : Nat) : Prop :=
  ∃ r' c', c' < 8 ∧ (r' < r ∨ r' = r ∧ c' < c) ∧ litPixel m base r' c' ∧ j = spriteCell x0 y0 r' c'

theorem litBefore_start (j : Nat) : litBefore m base x0 y0 0 0 j ↔ False := by simp [litBefore]

theorem litBefore_pixel {r c : Nat} (hc : c < 8) (j : Nat) : litBefore m base x0 y0 r (c + 1) j ↔
    litBefore m base x0 y0 r c j ∨ litPixel m base r c ∧ j = spriteCell x0 y0 r c := by
  constructor
  · rintro ⟨r', c', hc', hbefore, hlit, hj⟩
    by_cases hlast : r' = r ∧ c' = c
    · obtain ⟨rfl, rfl⟩ := hlast
      exact .inr ⟨hlit, hj⟩
    · exact .inl ⟨r', c', hc', by omega, hlit, hj⟩
  · rintro (⟨r', c', hc', hbefore, hlit, hj⟩ | ⟨hlit, hj⟩)
    · exact ⟨r', c', hc', by omega, hlit, hj⟩
    · exact ⟨r, c, hc, by omega, hlit, hj⟩

theorem litBefore_row (r j : Nat) : litBefore m base x0 y0 (r + 1) 0 j ↔ litBefore m base x0 y0 r 8 j := by
  have horder : ∀ r' c', c' < 8 → (r' < r + 1 ∨ r' = r + 1 ∧ c' < 0 ↔ r' < r ∨ r' = r ∧ c' < 8) := by omega
  constructor
  · rintro ⟨r', c', hc', hbefore, hlit⟩
    exact ⟨r', c', hc', (horder r' c' hc').1 hbefore, hlit⟩
  · rintro ⟨r', c', hc', hbefore, hlit⟩
    exact ⟨r', c', hc', (horder r' c' hc').2 hbefore, hlit⟩

/-- Before the row after the last, every lit pixel of the sprite has been drawn: its cells are the set S of R110. -/
theorem litBefore_all (n j : Nat) : litBefore m base x0 y0 n 0 j ↔ spriteCovers m base n x0 y0 j := by
  constructor
  · rintro ⟨r, c, hc, hbefore, hlit, hj⟩
    exact ⟨r, by omega, c, hc, hlit, hj⟩
  · rintro ⟨r, hr, c, hc, hlit, hj⟩
    exact ⟨r, c, hc, .inl hr, hlit, hj⟩

variable {m base x0 y0}

theorem Drawn.drawPixel {f : FrameBuffer} {k : Raster} {r c : Nat} (hr : r < 32) (hc : c < 8)
    (h : Drawn f (litBefore m base x0 y0 r c) k) :
    Drawn f (litBefore m base x0 y0 r (c + 1)) (drawPixel x0 y0 r (m.read (base + r)) k c) := by
  unfold Machine.drawPixel
  split
  · next hlit =>
    have hfresh : ¬ litBefore m base x0 y0 r c (spriteCell x0 y0 r c) := by
      rintro ⟨r', c', hc', hbefore, -, hcell⟩
      have := spriteCell_inj hr (by omega) hc hc' hcell
      omega
    refine (h.toggle (spriteCell_lt x0 y0 r c) hfresh).congr fun j => ?_
    rw [litBefore_pixel _ _ _ _ hc, and_iff_right (show litPixel m base r c from hlit)]
  · next hdark =>
    refine h.congr fun j => ?_
    rw [litBefore_pixel _ _ _ _ hc, or_iff_left fun hlast => hdark hlast.1]

theorem Drawn.drawRow {f : FrameBuffer} {k : Raster} {r : Nat} (hr : r < 32)
    (h : Drawn f (litBefore m base x0 y0 r 0) k) :
    Drawn f (litBefore m base x0 y0 (r + 1) 0) (drawRow x0 y0 k r (m.read (base + r))) := by
  suffices hpixels : ∀ c ≤ 8, Drawn f (litBefore m base x0 y0 r c)
      ((List.range c).foldl (Machine.drawPixel x0 y0 r (m.read (base + r))) k) from
    (hpixels 8 le_rfl).congr (litBefore_row m base x0 y0 r)
  intro c hc
  induction c with
  | zero => exact h
  | succ c ih =>
    rw [List.range_succ, List.foldl_append]
    exact (ih (by omega)).drawPixel hr hc

end

theorem State.drawRows_drawn (s : State) (x0 y0 : Nat) {n : Nat} (hn : n ≤ 32) :
    Drawn s.fb (spriteCovers s.mem s.i.toNat n x0 y0) (s.drawRows x0 y0 n) := by
  refine Drawn.congr ?_ fun j => (litBefore_all s.mem s.i.toNat x0 y0 n j).symm
  induction n with
  | zero => exact (Drawn.start s.fb).congr (litBefore_start s.mem s.i.toNat x0 y0)
  | succ n ih =>
    rw [State.drawRows, List.range_succ, List.foldl_append]
    exact (ih (by omega)).drawRow (by omega)

/-! ### The execute phase of Dxyn (R109, R110) -/

theorem exec_drwVxVyN (x y : Reg) {n : Fin 16} {s : State} (h : n.val > 0 → s.i.toNat + n.val - 1 ≤ 0xFFF) :
    exec (.drwVxVyN x y n) s =
      let k := s.drawRows (s.getV x).toNat (s.getV y).toNat n.val
      .next ((s.setFb k.fb).setV VF (flagByte k.hit)).advance :=
  if_pos ((s.dataInRange_iff n.val).2 h)

/-- Settles O36: the framebuffer and the flag are what the rasterizer has drawn after the last row. -/
theorem drawXorsTheSpriteAndReportsCollision : Obligations.DrawXorsTheSpriteAndReportsCollision := by
  intro x y n s hrange
  have hdrawn := s.drawRows_drawn (s.getV x).toNat (s.getV y).toNat (n := n.val) (by omega)
  have hexec := exec_drwVxVyN x y hrange
  generalize s.drawRows (s.getV x).toNat (s.getV y).toNat n.val = k at hdrawn hexec
  have hflag : (((s.setFb k.fb).setV VF (flagByte k.hit)).advance.getV 15).toNat = if k.hit then 1 else 0 := by
    rw [State.getV_setV_advance_same, flagByte_toNat]
  refine ⟨_, hexec, hdrawn.cell, ?_, ?_, fun r hr => State.getV_setV_advance_of_ne _ _ hr, rfl, fun _ => rfl⟩
  · rw [hflag]; split <;> simp
  · rw [hflag, ← hdrawn.hit]; split <;> simp_all

/-- A bit that two inversions may have changed, each exactly where the other did, is as it was. -/
theorem bit_restored : ∀ first second third : Bool, (third ≠ second ↔ second ≠ first) → third = first := by decide

theorem bit_set_iff_of_ne : ∀ first second : Bool, second ≠ first → (second = true ↔ first = false) := by decide

/-- Settles O37: the second draw inverts the cells of the first, and meets a set cell where the first left one. -/
theorem secondDrawRestoresTheFramebuffer : Obligations.SecondDrawRestoresTheFramebuffer := by
  intro x y n s hx hy hrange
  obtain ⟨t, hfirst, hcell, -, -, hkeep, ht, -⟩ := drawXorsTheSpriteAndReportsCollision x y n s hrange
  have hi : t.i = s.i := by rw [ht]
  have hmem : t.mem = s.mem := by rw [ht]
  obtain ⟨u, hsecond, hcell', -, hhit, -⟩ := drawXorsTheSpriteAndReportsCollision x y n t (by rwa [hi])
  rw [hi, hmem, hkeep x hx, hkeep y hy] at hcell' hhit
  refine ⟨t, u, hfirst, hsecond, fun k hk => bit_restored _ _ _ ((hcell' k hk).trans (hcell k hk).symm), ?_⟩
  rw [hhit]
  exact exists_congr fun k => and_congr_right fun hk => and_congr_left fun hcovers =>
    bit_set_iff_of_ne _ _ ((hcell k hk).2 hcovers)

end Sys2Proof.Machine
end
